-- ==== Sys2Proof/Word.lean ====
section
/-! DEFINITION. The widths of the AtlasVM engine (00_scope.md R5): bytes (`u8`) and 4-bit fields (`u4`). -/

namespace Sys2Proof

/-- `u8`: a cell, a register, an address, an offset byte (00_scope.md R5, CELLBITS, REGBITS, ADDRBITS).
`+`, `-`, `*` on it are taken mod 256. -/
abbrev Byte := BitVec 8

/-- `u4`: an opcode field or an operand field (00_scope.md R5, OPCODEBITS, OPERANDBITS). -/
abbrev Nibble := BitVec 4

/-- `u32`: a nonce (00_scope.md R5, NONCEBITS). -/
abbrev Nonce := BitVec 32

/-- 32 bytes, byte 0 first: what the digest yields (00_scope.md R5, DIGESTBYTES). -/
abbrev Digest := Vector Byte 32

end Sys2Proof
end

