-- ==== Sys2Proof/Config.lean ====
section
/-! DEFINITION. The open parameters of the engine (00_scope.md R6), which the source leaves open: a record of plain data,
and the digest function as an opaque constant. MEM0 is an argument of start-up (Machine/Ops.lean). -/

namespace Sys2Proof

/-- EXT15: which operation opcode value 15 selects (30_encoding.md R51). -/
inductive Ext15 where
  | none
  | netSend
  | netRecv
  | pow
deriving DecidableEq, Repr

/-- JBASE: whether a taken JZ/JNZ adds its offset to the address of the offset byte (0) or to the address after it (1)
(00_scope.md R6, 43_control_flow.md R83). -/
inductive JBase where
  | zero
  | one
deriving DecidableEq, Repr

/-- NONCE_ORDER: byte order of the 4-byte nonce, in the candidate block and in the write-back (46_proof_of_work.md R107). -/
inductive NonceOrder where
  | le
  | be
deriving DecidableEq, Repr

/-- The parameters of 00_scope.md R6 that are plain data. A machine carries its configuration unchanged through a run
(30_encoding.md R51 "fixed for a run"); why State holds it is log 1. -/
structure Config where
  /-- EXT15, R51. -/
  ext15 : Ext15
  /-- JBASE, R83. -/
  jbase : JBase
  /-- ACC_RESET, 10_state.md R27. -/
  accReset : Byte
  /-- NONCE_ORDER, R107. -/
  nonceOrder : NonceOrder
  /-- DIFFICULTY, an integer; 46_proof_of_work.md R106 gives it the range 0 to 256. -/
  difficulty : Int
deriving DecidableEq, Repr

/-- DESIGN CHOICE (logs 2, 3, 4, 6, 7). The defaults of 00_scope.md R6; the spec gives DIFFICULTY none, 8 is the model's. -/
def Config.default : Config where
  ext15 := .netSend
  jbase := .zero
  accReset := 0#8
  nonceOrder := .le
  difficulty := 8

/-- Free value (log 5): DIGEST, "an uninterpreted parameter, a total and deterministic function of the 260 bytes"
(46_proof_of_work.md R109). It is applied to candidate blocks only, which have 260 bytes. -/
opaque Config.digest : List Byte → Digest

/-- The configurations with a Network Channel (70_reset_and_hazards.md R143). -/
def Ext15.hasChannel : Ext15 → Bool
  | .netSend | .netRecv => true
  | .none | .pow => false

/-- JBASE as the number 0 or 1. -/
def JBase.toInt : JBase → Int
  | .zero => 0
  | .one => 1

/-- The range 0 to 256 of DIFFICULTY; the model refuses any other (46_proof_of_work.md R108, log 7). -/
def Config.difficultyInRange (c : Config) : Bool :=
  decide (0 ≤ c.difficulty ∧ c.difficulty ≤ 256)

end Sys2Proof
end

