-- ==== Sys2Proof/Syntax.lean ====
section
/-! DEFINITION. The instructions of the AtlasVM bytecode: one constructor per row of spec/opcode_table.json
(30_encoding.md R50), with every field of its format (R45), also the fields an instruction ignores (R53, log 20). -/

namespace Sys2Proof

/-- One constructor per row of the opcode table; `opd` is the operand field, `off` the offset byte of format BO. -/
inductive Instr where
  /-- Opcode 0, 40_arithmetic.md R61. -/
  | add (opd : Nibble)
  /-- Opcode 1, 40_arithmetic.md R62. -/
  | sub (opd : Nibble)
  /-- Opcode 2, 40_arithmetic.md R63. -/
  | mul (opd : Nibble)
  /-- Opcode 3, 40_arithmetic.md R64. -/
  | div (opd : Nibble)
  /-- Opcode 4, 41_logic.md R71. -/
  | and (opd : Nibble)
  /-- Opcode 5, 41_logic.md R72. -/
  | or (opd : Nibble)
  /-- Opcode 6, 41_logic.md R73. -/
  | xor (opd : Nibble)
  /-- Opcode 7, 42_data_transfer.md R76. -/
  | load (opd : Nibble)
  /-- Opcode 8, 42_data_transfer.md R77. -/
  | store (opd : Nibble)
  /-- Opcode 9, 43_control_flow.md R82. -/
  | jump (opd : Nibble)
  /-- Opcode 10, two bytes, 43_control_flow.md R83; `opd` is ignored. -/
  | jz (opd : Nibble) (off : Byte)
  /-- Opcode 11, two bytes, 43_control_flow.md R84; `opd` is ignored. -/
  | jnz (opd : Nibble) (off : Byte)
  /-- IN: opcode 12, 44_console_io.md R91; `opd` is ignored. -/
  | input (opd : Nibble)
  /-- OUT: opcode 13, 44_console_io.md R92; `opd` is ignored. -/
  | output (opd : Nibble)
  /-- Opcode 14, 43_control_flow.md R85; `opd` is ignored. -/
  | halt (opd : Nibble)
  /-- Opcode 15 under EXT15 = NET_SEND, 45_network.md R96. -/
  | netSend (opd : Nibble)
  /-- Opcode 15 under EXT15 = NET_RECV, 45_network.md R97. -/
  | netRecv (opd : Nibble)
  /-- Opcode 15 under EXT15 = POW, 46_proof_of_work.md R111. -/
  | pow (opd : Nibble)
  /-- Opcode 15 under EXT15 = NONE, an unknown instruction, 43_control_flow.md R86; `opd` is not used. -/
  | unknown (opd : Nibble)
deriving DecidableEq, Repr

/-- The operand field of the first byte. -/
def Instr.operand : Instr → Nibble
  | .add n | .sub n | .mul n | .div n | .and n | .or n | .xor n | .load n | .store n | .jump n => n
  | .jz n _ | .jnz n _ => n
  | .input n | .output n | .halt n | .netSend n | .netRecv n | .pow n | .unknown n => n

/-- The enumeration number (30_encoding.md R50, R52; NET_SEND = 15 and NET_RECV = 16 are the spec's inference, log 23).
An unknown instruction has none. -/
def Instr.enumNumber : Instr → Option Nat
  | .add _ => some 0
  | .sub _ => some 1
  | .mul _ => some 2
  | .div _ => some 3
  | .and _ => some 4
  | .or _ => some 5
  | .xor _ => some 6
  | .load _ => some 7
  | .store _ => some 8
  | .jump _ => some 9
  | .jz _ _ => some 10
  | .jnz _ _ => some 11
  | .input _ => some 12
  | .output _ => some 13
  | .halt _ => some 14
  | .netSend _ => some 15
  | .netRecv _ => some 16
  | .pow _ => some 17
  | .unknown _ => none

end Sys2Proof
end

