-- ==== Sys2Proof/WellFormed.lean ====
section
/-! DEFINITION. Which instructions have an encoding in a configuration: the fields are bounded by their types, so the one
check left is that an operation of slot 15 is the one EXT15 binds (30_encoding.md R51). -/

namespace Sys2Proof

/-- "In any one configuration at most one of the three extension operations has an encoding" (30_encoding.md R51);
the fifteen core operations have one in every configuration (R50). -/
def Instr.wellFormed (e : Ext15) : Instr → Bool
  | .netSend _ => e == .netSend
  | .netRecv _ => e == .netRecv
  | .pow _ => e == .pow
  | .unknown _ => e == .none
  | .add _ | .sub _ | .mul _ | .div _ | .and _ | .or _ | .xor _ | .load _ | .store _ | .jump _ => true
  | .jz _ _ | .jnz _ _ | .input _ | .output _ | .halt _ => true

end Sys2Proof
end

