-- ==== Sys2Proof/Decode.lean ====
section
/-! DEFINITION. The Decoder (10_state.md R26, 30_encoding.md R45 to R55), total on every byte, and the encoder written from
the same opcode map (R50). -/

namespace Sys2Proof

/-- `opc = ir[7:4]` (30_encoding.md R46). -/
def opcodeField (ir : Byte) : Nibble := ir.extractLsb' 4 4

/-- `opd = ir[3:0]` (30_encoding.md R46). -/
def operandField (ir : Byte) : Nibble := ir.extractLsb' 0 4

/-- "Conversely `ir = 16 * opc + opd`" (30_encoding.md R46). -/
def packFields (opc opd : Nibble) : Byte := opc ++ opd

/-- Slot 15: the operation the configuration binds (30_encoding.md R51). -/
def slot15 : Ext15 → Nibble → Instr
  | .none, n => .unknown n
  | .netSend, n => .netSend n
  | .netRecv, n => .netRecv n
  | .pow, n => .pow n

/-- `dispatch(EXT15, opc)` (30_encoding.md R55), with the fields its row carries; `off` is the byte after the first,
which only JZ and JNZ take up. -/
def dispatch (e : Ext15) (opc opd : Nibble) (off : Byte) : Instr :=
  match opc.toNat with
  | 0 => .add opd
  | 1 => .sub opd
  | 2 => .mul opd
  | 3 => .div opd
  | 4 => .and opd
  | 5 => .or opd
  | 6 => .xor opd
  | 7 => .load opd
  | 8 => .store opd
  | 9 => .jump opd
  | 10 => .jz opd off
  | 11 => .jnz opd off
  | 12 => .input opd
  | 13 => .output opd
  | 14 => .halt opd
  | _ => slot15 e opd

/-- The instruction whose first byte is `ir` and whose following byte is `off`: "Pure, total, no failure mode"
(10_state.md R26). -/
def decodeBytes (e : Ext15) (ir off : Byte) : Instr :=
  dispatch e (opcodeField ir) (operandField ir) off

/-- Instruction length in bytes, told "from the opcode field of its first byte alone" (30_encoding.md R49). -/
def lengthOfOpcode (opc : Nibble) : Nat :=
  if opc = 10#4 ∨ opc = 11#4 then 2 else 1

/-- Why a byte list holds no whole instruction. The engine itself never meets these: its memory wraps, so a byte always
follows (20_memory.md R43). -/
inductive DecodeError where
  /-- There is no byte to decode. -/
  | noBytes
  /-- A JZ or JNZ byte ends the list, its offset byte is missing. -/
  | offsetByteMissing
deriving DecidableEq, Repr

/-- The first instruction of a byte list and the bytes after it. -/
def decode (e : Ext15) : List Byte → Except DecodeError (Instr × List Byte)
  | [] => .error .noBytes
  | ir :: rest =>
    if lengthOfOpcode (opcodeField ir) = 2 then
      match rest with
      | [] => .error .offsetByteMissing
      | off :: rest' => .ok (decodeBytes e ir off, rest')
    else .ok (decodeBytes e ir 0#8, rest)

/-- The opcode field of an instruction's first byte (30_encoding.md R50); every slot-15 row has 15. -/
def Instr.opcode : Instr → Nibble
  | .add _ => 0#4
  | .sub _ => 1#4
  | .mul _ => 2#4
  | .div _ => 3#4
  | .and _ => 4#4
  | .or _ => 5#4
  | .xor _ => 6#4
  | .load _ => 7#4
  | .store _ => 8#4
  | .jump _ => 9#4
  | .jz _ _ => 10#4
  | .jnz _ _ => 11#4
  | .input _ => 12#4
  | .output _ => 13#4
  | .halt _ => 14#4
  | .netSend _ | .netRecv _ | .pow _ | .unknown _ => 15#4

/-- The byte `16 * opc + opd` of an instruction. -/
def Instr.firstByte (i : Instr) : Byte := packFields i.opcode i.operand

/-- What follows the first byte: the offset byte of JZ and JNZ (format BO), nothing for format B (30_encoding.md R45). -/
def Instr.tail : Instr → List Byte
  | .jz _ off | .jnz _ off => [off]
  | .add _ | .sub _ | .mul _ | .div _ | .and _ | .or _ | .xor _ | .load _ | .store _ | .jump _ => []
  | .input _ | .output _ | .halt _ | .netSend _ | .netRecv _ | .pow _ | .unknown _ => []

/-- The bytes of an instruction in address order (30_encoding.md R45). -/
def encode (i : Instr) : List Byte := i.firstByte :: i.tail

/-- The two bytes of an instruction numbered as the opcode table numbers bits: the first byte is bits 7..0, the second
bits 15..8; the bits from `nbits` up are 0. -/
def tableBytes (nbits w : Nat) : Byte × Byte :=
  (BitVec.ofNat 8 (w % 2 ^ nbits), BitVec.ofNat 8 (w % 2 ^ nbits / 256))

/-- The instruction the decoder reads from a table word, in the default configuration (log 2: the rows NET_RECV, POW and
UNKNOWN share the words of NET_SEND and are live in other configurations only). -/
def decodeTableWord (nbits w : Nat) : Option Instr :=
  match decode Config.default.ext15 [(tableBytes nbits w).1, (tableBytes nbits w).2] with
  | .ok (i, _) => some i
  | .error _ => none

end Sys2Proof
end

