-- ==== Sys2Proof/Machine/State.lean ====
section
/-! DEFINITION. The state of the engine (10_state.md R10, R25), the reasons a step can stop with, and the state after reset
(R27). INVENTORY.md lists every field with its rule and reset value. -/

namespace Sys2Proof.Machine

/-- MEM: (address, byte) pairs in the canonical form `Memory.wf` (Machine/Ops.lean): addresses strictly rising and below
256, no zero bytes. An address not listed reads as 0 (10_state.md R27, 20_memory.md R31). -/
abbrev Memory := List Host.Cell

/-- CAUSE: the reason the loop stopped (10_state.md R15). -/
inductive Cause where
  | none
  | halt
  | unknownInstruction
  | inputError
  | netError
deriving DecidableEq, Repr

/-- One token of the console input stream (10_state.md R19). -/
inductive ConsoleToken where
  /-- A decimal integer. -/
  | int (n : Int)
  /-- Not a decimal integer. -/
  | bad
deriving DecidableEq, Repr

/-- The environment's answer to one NetSend (10_state.md R21). -/
inductive SendAnswer where
  | ok
  | fail
deriving DecidableEq, Repr

/-- The environment's answer to one NetRecv (10_state.md R22). -/
inductive RecvAnswer where
  | byte (b : Byte)
  | fail
deriving DecidableEq, Repr

/-- The Network Channel (10_state.md R21): absent where the configuration has none, else open from start-up to the end of
the loop and closed from then on. -/
inductive Channel where
  | absent
  | isOpen
  | closed
deriving DecidableEq, Repr

/-- The state of the engine. Between steps `pc` is the address of the next instruction byte; a handler sees it already
incremented (10_state.md R12). -/
structure State where
  /-- PC, 10_state.md R12. -/
  pc : Byte
  /-- ACC, 10_state.md R11. -/
  acc : Byte
  /-- MEM, 10_state.md R16. -/
  mem : Memory
  /-- RUNNING, 10_state.md R14. -/
  running : Bool
  /-- CAUSE, 10_state.md R15. -/
  cause : Cause
  /-- The console tokens the environment will supply, next first (10_state.md R19, log 9). -/
  consoleIn : List ConsoleToken
  /-- Whether the console input ends after `consoleIn`; otherwise it stays open (10_state.md R19, log 9). -/
  consoleEnded : Bool
  /-- Count of console tokens consumed (10_state.md R25, 70_reset_and_hazards.md R145). -/
  consoleTaken : Nat
  /-- The values written to the console, oldest first (10_state.md R20). -/
  consoleOut : List Byte
  /-- The Network Channel (10_state.md R21, R25). -/
  channel : Channel
  /-- The environment's answers to the coming sends, next first (10_state.md R21, log 9). -/
  sendAnswers : List SendAnswer
  /-- What the coming receives yield, next first (10_state.md R22, R25, log 9). -/
  recvAnswers : List RecvAnswer
  /-- The bytes sent, oldest first (10_state.md R21). -/
  sent : List Byte
  /-- Count of bytes received (70_reset_and_hazards.md R145). -/
  received : Nat
  /-- The configuration of the run: the spec's parameters, no state of the engine; no instruction changes it (log 1). -/
  cfg : Config
deriving DecidableEq, Repr

/-- Why a step, or a start-up, ends without a next state. -/
inductive Fault where
  /-- Raised by `step` while RUNNING = 0: "While RUNNING = 0 the engine has no step" (60_exceptions.md R128, log 12).
  Not an error: the run has ended and CAUSE says how. Safe: no next state is claimed. -/
  | notRunning
  /-- Raised by NET_SEND and NET_RECV when no channel is open, which no run reaches (log 18): the spec gives a transfer
  meaning on the open channel only (10_state.md R21). Safe: no next state is claimed. -/
  | channelNotOpen
  /-- Raised by `startUp` when the Loader has no image: "there is no MEM0 and no run" (60_exceptions.md R127).
  Safe: no state is claimed. -/
  | loadFailure
deriving DecidableEq, Repr

/-- What the model gives no meaning. -/
inductive Refusal where
  /-- Raised by an arm of `exec` that has no meaning yet. Safe: no next state is claimed. -/
  | notModelled (mnemonic : String)
  /-- Raised by `startUp` and by POW when DIFFICULTY is below 0 or above 256: "the model refuses such a configuration"
  (46_proof_of_work.md R108, log 7). Safe: no next state is claimed. -/
  | difficultyOutOfRange
  /-- Raised by `startUp` for an image longer than 256 bytes, which the source does not specify (10_state.md R23, log 24).
  Safe: no state is claimed. -/
  | imageTooLong
deriving DecidableEq, Repr

/-- What a step, and the handler of an instruction, answers. -/
abbrev StepResult := Host.Outcome State Fault Refusal

/-- The state right after reset (10_state.md R27) in the default configuration, with the empty image (MEM0 all zero, log 8),
the channel connected, and an environment that has answered nothing yet (log 9). ACC is ACC_RESET, default 0 (log 4). -/
def State.reset : State where
  pc := 0#8
  acc := Config.default.accReset
  mem := []
  running := true
  cause := .none
  consoleIn := []
  consoleEnded := false
  consoleTaken := 0
  consoleOut := []
  channel := .isOpen
  sendAnswers := []
  recvAnswers := []
  sent := []
  received := 0
  cfg := Config.default

end Sys2Proof.Machine
end

