-- ==== Sys2Proof/Machine/Ops.lean ====
section
/-! DEFINITION. The named operations over memory, registers and the environment, stopping (60_exceptions.md R124), waiting,
the end of the loop and start-up (70_reset_and_hazards.md R140). -/

namespace Sys2Proof.Machine

/-! ### Memory -/

/-- The byte at a key; a key not listed holds 0 (20_memory.md R31: a cell nobody has written "holds 0"). -/
def Memory.cell : Memory → Nat → Byte
  | [], _ => 0#8
  | (b, v) :: rest, a => if b = a then v else Memory.cell rest a

/-- Places a byte at a key the list does not hold, before the first greater key. -/
def Memory.insertCell : Memory → Nat → Byte → Memory
  | [], a, v => [(a, v)]
  | (b, w) :: rest, a, v =>
    if a < b then (a, v) :: (b, w) :: rest else (b, w) :: Memory.insertCell rest a v

/-- The list without a key. -/
def Memory.eraseCell (m : Memory) (a : Nat) : Memory := m.filter (fun c => c.1 != a)

/-- `MEM[a]`, a read of one cell (20_memory.md R31). -/
def Memory.read (m : Memory) (a : Byte) : Byte := Memory.cell m a.toNat

/-- `MemWrite(a, 1, v)` (20_memory.md R32); a zero byte is what an unlisted address reads as, so it is not listed. -/
def Memory.write (m : Memory) (a v : Byte) : Memory :=
  if v = 0#8 then m.eraseCell a.toNat else (m.eraseCell a.toNat).insertCell a.toNat v

/-- `MemRead(addr, n)`: the cells at `addr`, `addr + 1`, ..., each address mod 256 (20_memory.md R31). -/
def Memory.readRange (m : Memory) (addr : Byte) (n : Nat) : List Byte :=
  (List.range n).map fun i => m.read (addr + BitVec.ofNat 8 i)

/-- `MemWrite(addr, n, v)` for the `n` bytes of `v`, each address mod 256 (20_memory.md R32). -/
def Memory.writeRange (m : Memory) (addr : Byte) : List Byte → Memory
  | [] => m
  | v :: vs => Memory.writeRange (m.write addr v) (addr + 1#8) vs

/-- The canonical form from key `lo` on: keys strictly rising and below 256 (MEMSIZE, 00_scope.md R5), no zero byte. -/
def Memory.wfFrom : Nat → Memory → Bool
  | _, [] => true
  | lo, (a, v) :: rest => decide (lo ≤ a ∧ a < 256 ∧ v ≠ 0#8) && Memory.wfFrom (a + 1) rest

/-- The canonical form of memory: equal contents are equal lists. -/
def Memory.wf (m : Memory) : Bool := Memory.wfFrom 0 m

/-! ### Registers and memory of the state -/

/-- `PC <- v`. -/
def State.setPc (s : State) (v : Byte) : State := { s with pc := v }

/-- `ACC <- v`. -/
def State.setAcc (s : State) (v : Byte) : State := { s with acc := v }

/-- Replaces the contents of MEM. -/
def State.setMem (s : State) (m : Memory) : State := { s with mem := m }

/-- `MemWrite(a, 1, v)` on the state. -/
def State.writeCell (s : State) (a v : Byte) : State := s.setMem (s.mem.write a v)

/-- The PC increment of the fetch: PC holds PC1 from here on (20_memory.md R44, 43_control_flow.md R80). -/
def State.fetched (s : State) : State := s.setPc (s.pc + 1#8)

/-! ### Fetch -/

/-- The instruction at PC: its byte (20_memory.md R44), and the byte after it (mod 256, R43), which JZ and JNZ take as
their offset byte. Reading a byte the instruction does not use has no side effect (R31, log 17). -/
def State.fetchInstr (s : State) : Instr :=
  decodeBytes s.cfg.ext15 (s.mem.read s.pc) (s.mem.read (s.pc + 1#8))

/-- The state with two bytes stored at PC and the byte after it. -/
def State.placeAtPc (s : State) (b0 b1 : Byte) : State :=
  s.setMem ((s.mem.write s.pc b0).write (s.pc + 1#8) b1)

/-! ### Stopping, waiting, the end of the loop -/

/-- `raise Stop(cause)`: the one effect of every stop cause (60_exceptions.md R124). PC keeps the value it has, which is
PC1 in a handler (log 21). There is no return from it (R128). -/
def State.raiseStop (s : State) (c : Cause) : State := { s with running := false, cause := c }

/-- The instruction does not complete in this step: "no partial state is visible" (92_eei_decisions.md D24), so the fetch's
PC increment is undone and the state is what it was before the step; the next step tries again (logs 10, 11). -/
def State.notCompleted (s : State) : State := s.setPc (s.pc - 1#8)

/-- After the loop has ended the channel, where there is one, is closed (60_exceptions.md R125). -/
def State.closeChannel (s : State) : State :=
  match s.channel with
  | .absent => s
  | .isOpen | .closed => { s with channel := .closed }

/-- What the loop does between a handler and the next fetch: nothing while RUNNING = 1; once RUNNING = 0 the channel is
"closed once after the loop terminates" (60_exceptions.md R125, log 16). -/
def State.endOfPass (s : State) : State := if s.running then s else s.closeChannel

/-- The numeric codes of CAUSE (10_state.md R15, log 22). -/
def Cause.code : Cause → Nat
  | .none => 0
  | .halt => 1
  | .unknownInstruction => 2
  | .inputError => 3
  | .netError => 4

/-! ### Console -/

/-- The outcome of `StdinRead()` (10_state.md R19). -/
inductive StdinOutcome where
  | int (n : Int)
  | bad
  /-- No token yet and the stream has not ended. -/
  | noneYet
deriving DecidableEq, Repr

/-- `StdinRead()` consumes the next token; at the end of the stream it is Bad (10_state.md R19, log 13). -/
def State.stdinRead (s : State) : StdinOutcome × State :=
  match s.consoleIn with
  | .int n :: rest => (.int n, { s with consoleIn := rest, consoleTaken := s.consoleTaken + 1 })
  | .bad :: rest => (.bad, { s with consoleIn := rest, consoleTaken := s.consoleTaken + 1 })
  | [] => (if s.consoleEnded then .bad else .noneYet, s)

/-- `StdoutWrite(v)` (10_state.md R20). -/
def State.stdoutWrite (s : State) (v : Byte) : State := { s with consoleOut := s.consoleOut ++ [v] }

/-- The decimal digits of a value 0 to 255, no sign, no leading zeros (10_state.md R20, log 25). -/
def decimalDigits (v : Byte) : List Nat :=
  if v.toNat < 10 then [v.toNat]
  else if v.toNat < 100 then [v.toNat / 10, v.toNat % 10]
  else [v.toNat / 100, v.toNat / 10 % 10, v.toNat % 10]

/-- The text form of the console output, "a function of that sequence" of values: one line of digits per item
(10_state.md R20). -/
def State.consoleLines (s : State) : List (List Nat) := s.consoleOut.map decimalDigits

/-! ### Network Channel -/

/-- The outcome of `NetSend(b)` (10_state.md R21). -/
inductive SendOutcome where
  | ok
  | fail
  /-- The write blocks. -/
  | noneYet
deriving DecidableEq, Repr

/-- `NetSend(b)`: on Ok, `b` is appended to the bytes sent, which hold only Ok sends (10_state.md R21, log 19). -/
def State.netSend (s : State) (b : Byte) : SendOutcome × State :=
  match s.sendAnswers with
  | .ok :: rest => (.ok, { s with sendAnswers := rest, sent := s.sent ++ [b] })
  | .fail :: rest => (.fail, { s with sendAnswers := rest })
  | [] => (.noneYet, s)

/-- The outcome of `NetRecv()` (10_state.md R22). -/
inductive RecvOutcome where
  | byte (b : Byte)
  | fail
  /-- No byte is available yet. -/
  | noneYet
deriving DecidableEq, Repr

/-- `NetRecv()`: one byte is taken from the peer's stream, in the order the peer sent them (10_state.md R22). -/
def State.netRecv (s : State) : RecvOutcome × State :=
  match s.recvAnswers with
  | .byte b :: rest => (.byte b, { s with recvAnswers := rest, received := s.received + 1 })
  | .fail :: rest => (.fail, { s with recvAnswers := rest })
  | [] => (.noneYet, s)

/-! ### Start-up and the end of a run -/

/-- What the environment brings to a run: its coming answers, and whether the channel's connection succeeds
(70_reset_and_hazards.md R143, R149). -/
structure Environment where
  connects : Bool
  consoleIn : List ConsoleToken
  consoleEnded : Bool
  sendAnswers : List SendAnswer
  recvAnswers : List RecvAnswer
deriving DecidableEq, Repr

/-- An environment that connects and has answered nothing yet (log 9). -/
def Environment.silent : Environment where
  connects := true
  consoleIn := []
  consoleEnded := false
  sendAnswers := []
  recvAnswers := []

/-- The Loader's address-0 load into zeroed memory: `MEM0[a] = B[a]` for `a < L`, else 0 (10_state.md R23). -/
def loadImage (image : List Byte) : Memory := Memory.writeRange [] 0#8 image

/-- The state at the end of the reset procedure, given MEM0 (70_reset_and_hazards.md R140). Where a channel exists and
its connection fails, no instruction is ever executed (60_exceptions.md R125). -/
def resetState (c : Config) (mem0 : Memory) (env : Environment) : State where
  pc := 0#8
  acc := c.accReset
  mem := mem0
  running := !c.ext15.hasChannel || env.connects
  cause := if c.ext15.hasChannel && !env.connects then .netError else .none
  consoleIn := env.consoleIn
  consoleEnded := env.consoleEnded
  consoleTaken := 0
  consoleOut := []
  channel := if c.ext15.hasChannel then (if env.connects then .isOpen else .closed) else .absent
  sendAnswers := env.sendAnswers
  recvAnswers := env.recvAnswers
  sent := []
  received := 0
  cfg := c

/-- Start-up (70_reset_and_hazards.md R140) from the buffer the Loader got, if it got one: a load failure ends it with no
run (R142), an image over 256 bytes is not specified (10_state.md R23) and a DIFFICULTY out of range is refused (R108). -/
def startUp (c : Config) (image : Option (List Byte)) (env : Environment) : StepResult :=
  match image with
  | .none => .fault .loadFailure
  | .some buffer =>
    if buffer.length > 256 then .refused .imageTooLong
    else if c.difficultyInRange then .next (resetState c (loadImage buffer) env)
    else .refused .difficultyOutOfRange

/-- What the host can read of an ended run (70_reset_and_hazards.md R145). -/
structure FinalState where
  pc : Byte
  acc : Byte
  mem : Memory
  cause : Cause
  consoleOut : List Byte
  sent : List Byte
  consoleTaken : Nat
  received : Nat
deriving DecidableEq, Repr

/-- The final state of a run: a run ends when RUNNING becomes 0, and one that never does has none
(70_reset_and_hazards.md R145). -/
def State.finalState (s : State) : Option FinalState :=
  if s.running then none
  else some ⟨s.pc, s.acc, s.mem, s.cause, s.consoleOut, s.sent, s.consoleTaken, s.received⟩

end Sys2Proof.Machine
end

