-- ==== Sys2Proof/Machine/Operands.lean ====
section
/-! DEFINITION. The operand forms (30_encoding.md R47, R48; 42_data_transfer.md R75): the cell a 4-bit field names, the same
field as an immediate, and the signed offset byte. -/

namespace Sys2Proof.Machine

/-- `zext_8(opd)` as a cell address, 0 to 15: the one addressing mode (42_data_transfer.md R75). -/
def cellAddress (opd : Nibble) : Byte := opd.setWidth 8

/-- `zext_8(opd)` as an immediate, the target of JUMP (30_encoding.md R47). -/
def immediate (opd : Nibble) : Byte := opd.setWidth 8

/-- `MEM[opd]`, the operand cell, read once and after the fetch (40_arithmetic.md R66). -/
def State.operandCell (s : State) (opd : Nibble) : Byte := s.mem.read (cellAddress opd)

/-- `sint8(off)`, -128 to 127 (00_scope.md Extension, 30_encoding.md R48). -/
def sint8 (off : Byte) : Int := if off.toNat ≤ 127 then (off.toNat : Int) else (off.toNat : Int) - 256

/-- `n mod 256` for an integer `n`: the mathematical remainder in 0 to 255 (00_scope.md Numbers). -/
def byteOfInt (n : Int) : Byte := BitVec.ofInt 8 n

/-- `(PC + JBASE + sint8(off)) mod 256` with PC the address of the offset byte (43_control_flow.md R83). -/
def branchTarget (jbase : JBase) (pc off : Byte) : Byte :=
  byteOfInt ((pc.toNat : Int) + jbase.toInt + sint8 off)

end Sys2Proof.Machine
end

