-- ==== Sys2Proof/Machine/Alu.lean ====
section
/-! DEFINITION. The ALU: the part of the Execution Unit that computes the result of opcodes 0 to 7 (40_arithmetic.md R60). -/

namespace Sys2Proof.Machine

/-- The operation selected by `opc` (40_arithmetic.md R60). -/
inductive AluOp where
  | add
  | sub
  | mul
  | div
  | and
  | or
  | xor
  | pass
deriving DecidableEq, Repr

/-- The ALU's result for `a = ACC` and `b = MEM[opd]`, or none for a division by zero, "no result (no write)"
(40_arithmetic.md R60). The quotient is unsigned and rounded toward zero (R65, log 15). -/
def alu : AluOp → Byte → Byte → Option Byte
  | .add, a, b => some (a + b)
  | .sub, a, b => some (a - b)
  | .mul, a, b => some (a * b)
  | .div, a, b => if b = 0#8 then none else some (BitVec.ofNat 8 (a.toNat / b.toNat))
  | .and, a, b => some (a &&& b)
  | .or, a, b => some (a ||| b)
  | .xor, a, b => some (a ^^^ b)
  | .pass, _, b => some b

/-- An ALU operation on ACC and an operand cell: the result goes to ACC, and where there is none ACC is not written. -/
def State.aluInto (s : State) (op : AluOp) (opd : Nibble) : State :=
  match alu op s.acc (s.operandCell opd) with
  | some r => s.setAcc r
  | none => s

end Sys2Proof.Machine
end

