-- ==== Sys2Proof/Machine/Arithmetic.lean ====
section
/-! DEFINITION. ADD, SUB, MUL, DIV (40_arithmetic.md). Each handler runs after the fetch, with PC = PC1, and leaves PC. -/

namespace Sys2Proof.Machine

/-- ADD n: `ACC <- (ACC + MEM[n]) mod 256` (40_arithmetic.md R61). -/
def execAdd (opd : Nibble) (s : State) : StepResult := .next (s.aluInto .add opd)

/-- SUB n: `ACC <- (ACC - MEM[n]) mod 256`, no borrow (40_arithmetic.md R62). -/
def execSub (opd : Nibble) (s : State) : StepResult := .next (s.aluInto .sub opd)

/-- MUL n: the low 8 bits of the product (40_arithmetic.md R63). -/
def execMul (opd : Nibble) (s : State) : StepResult := .next (s.aluInto .mul opd)

/-- DIV n: the unsigned quotient; "divide-by-zero is a no-op" (40_arithmetic.md R64, 60_exceptions.md R129). -/
def execDiv (opd : Nibble) (s : State) : StepResult := .next (s.aluInto .div opd)

end Sys2Proof.Machine
end

