-- ==== Sys2Proof/Machine/Console.lean ====
section
/-! DEFINITION. IN and OUT (44_console_io.md). -/

namespace Sys2Proof.Machine

/-- IN: the next integer mod 256 goes to ACC (log 14); Bad stops with INPUT_ERROR, ACC unchanged (log 13); with no outcome
yet the instruction waits (44_console_io.md R91, log 10). -/
def execIn (_opd : Nibble) (s : State) : StepResult :=
  match s.stdinRead with
  | (.int n, t) => .next (t.setAcc (byteOfInt n))
  | (.bad, t) => .next (t.raiseStop .inputError)
  | (.noneYet, t) => .next t.notCompleted

/-- OUT: `StdoutWrite(ACC)` (44_console_io.md R92). -/
def execOut (_opd : Nibble) (s : State) : StepResult := .next (s.stdoutWrite s.acc)

end Sys2Proof.Machine
end

