-- ==== Sys2Proof/Machine/Flags.lean ====
section
/-! DEFINITION. "The engine has no flags, condition codes or predicates" (10_state.md R13). The one condition an
instruction tests is ACC against zero, at the time it executes. -/

namespace Sys2Proof.Machine

/-- The test of JZ and JNZ: ACC itself is compared with zero, no stored condition is read (10_state.md R13). -/
def State.accIsZero (s : State) : Bool := s.acc == 0#8

end Sys2Proof.Machine
end

