-- ==== Sys2Proof/Machine/Control.lean ====
section
/-! DEFINITION. JUMP, JZ, JNZ, HALT and an unknown instruction (43_control_flow.md). A handler sees PC = PC1; for JZ and JNZ
that is the address of the offset byte, which the decoder hands over (log 17). -/

namespace Sys2Proof.Machine

/-- JUMP n: `PC <- zext_8(opd)` (43_control_flow.md R82). -/
def execJump (opd : Nibble) (s : State) : StepResult := .next (s.setPc (immediate opd))

/-- The two arms of a conditional branch: taken, the offset is added to PC; not taken, the offset byte is skipped
(43_control_flow.md R81, R83). -/
def State.branch (s : State) (taken : Bool) (off : Byte) : State :=
  s.setPc (if taken then branchTarget s.cfg.jbase s.pc off else s.pc + 1#8)

/-- JZ: taken when ACC = 0 (43_control_flow.md R83); the operand field is ignored (30_encoding.md R53, log 20). -/
def execJz (_opd : Nibble) (off : Byte) (s : State) : StepResult := .next (s.branch s.accIsZero off)

/-- JNZ: "same as JZ with the inverted condition" (43_control_flow.md R84). -/
def execJnz (_opd : Nibble) (off : Byte) (s : State) : StepResult := .next (s.branch (!s.accIsZero) off)

/-- HALT: `raise Stop(HALT)` (43_control_flow.md R85). -/
def execHalt (_opd : Nibble) (s : State) : StepResult := .next (s.raiseStop .halt)

/-- An unknown instruction: `raise Stop(UNKNOWN_INSTRUCTION)` (43_control_flow.md R86). -/
def execUnknown (_opd : Nibble) (s : State) : StepResult := .next (s.raiseStop .unknownInstruction)

end Sys2Proof.Machine
end

