-- ==== Sys2Proof/Machine/Logic.lean ====
section
/-! DEFINITION. AND, OR, XOR (41_logic.md): bit by bit into ACC, the right operand a cell (R70, log 28). -/

namespace Sys2Proof.Machine

/-- AND n: `ACC <- ACC AND MEM[n]` (41_logic.md R71). -/
def execAnd (opd : Nibble) (s : State) : StepResult := .next (s.aluInto .and opd)

/-- OR n: `ACC <- ACC OR MEM[n]` (41_logic.md R72). -/
def execOr (opd : Nibble) (s : State) : StepResult := .next (s.aluInto .or opd)

/-- XOR n: `ACC <- ACC XOR MEM[n]` (41_logic.md R73). -/
def execXor (opd : Nibble) (s : State) : StepResult := .next (s.aluInto .xor opd)

end Sys2Proof.Machine
end

