-- ==== Sys2Proof/Machine/Network.lean ====
section
/-! DEFINITION. NET_SEND and NET_RECV (45_network.md): one raw byte to or from the open channel. A channel that is not open
has no transfers (10_state.md R21); no run executes them there (log 18). -/

namespace Sys2Proof.Machine

/-- NET_SEND n: sends `MEM[n]`; a transport failure is fatal; it waits while the write blocks (45_network.md R96). -/
def execNetSend (opd : Nibble) (s : State) : StepResult :=
  match s.channel with
  | .absent | .closed => .fault .channelNotOpen
  | .isOpen =>
    match s.netSend (s.operandCell opd) with
    | (.ok, t) => .next t
    | (.fail, t) => .next (t.raiseStop .netError)
    | (.noneYet, t) => .next t.notCompleted

/-- NET_RECV n: stores one received byte in `MEM[n]`; a transport failure is fatal and leaves Memory; it waits until a byte
is available (45_network.md R97). -/
def execNetRecv (opd : Nibble) (s : State) : StepResult :=
  match s.channel with
  | .absent | .closed => .fault .channelNotOpen
  | .isOpen =>
    match s.netRecv with
    | (.byte b, t) => .next (t.writeCell (cellAddress opd) b)
    | (.fail, t) => .next (t.raiseStop .netError)
    | (.noneYet, t) => .next t.notCompleted

end Sys2Proof.Machine
end

