-- ==== Sys2Proof/Machine/ProofOfWork.lean ====
section
/-! DEFINITION. The Proof-of-Work Module and POW (46_proof_of_work.md). The search is written for any digest function; the
engine's is the opaque `Config.digest` (R109, log 5). -/

namespace Sys2Proof.Machine

/-- The 4 bytes of a nonce, least significant first. -/
def nonceBytesLe (n : Nonce) : List Byte :=
  [n.extractLsb' 0 8, n.extractLsb' 8 8, n.extractLsb' 16 8, n.extractLsb' 24 8]

/-- `NonceBytes(n)` (46_proof_of_work.md R107). -/
def nonceBytes : NonceOrder → Nonce → List Byte
  | .le, n => nonceBytesLe n
  | .be, n => (nonceBytesLe n).reverse

/-- `block(n) = image ++ NonceBytes(n)` (46_proof_of_work.md R107). -/
def candidateBlock (order : NonceOrder) (image : List Byte) (n : Nonce) : List Byte := image ++ nonceBytes order n

/-- Byte `i` of the target for difficulty `d`, the top `d` bits set, MSB first (46_proof_of_work.md R108). -/
def targetByte (d i : Nat) : Byte :=
  if 8 * (i + 1) ≤ d then 0xFF#8
  else if 8 * i < d then BitVec.ofNat 8 (0xFF00 >>> (d - 8 * i))
  else 0x00#8

/-- The 32 bytes of the target, byte 0 first (46_proof_of_work.md R108). -/
def target (d : Nat) : List Byte := (List.range 32).map (targetByte d)

/-- Bytes as a big-endian unsigned integer, byte 0 the most significant (46_proof_of_work.md R109). -/
def bigEndian (bytes : List Byte) : Nat := bytes.foldl (fun h b => h * 256 + b.toNat) 0

/-- `H(n) < T(d)`, strictly (46_proof_of_work.md R109). -/
def qualifies (digest : List Byte → Digest) (order : NonceOrder) (image : List Byte) (d : Nat) (n : Nonce) : Bool :=
  decide (bigEndian (digest (candidateBlock order image n)).toList < bigEndian (target d))

/-- The loop of 46_proof_of_work.md R110 for at most `trials` candidates from `n` on, the counter taken mod 2^32. -/
def searchFrom (p : Nonce → Bool) : (trials : Nat) → (n : Nonce) → Option Nonce
  | 0, _ => none
  | k + 1, n => if p n then some n else searchFrom p k (n + 1#32)

/-- `search(image, d)`: the first qualifying nonce from 0 on. After 2^32 candidates the counter "meets the same candidates
again", so none is the search that never returns (46_proof_of_work.md R110, log 11). -/
def search (digest : List Byte → Digest) (order : NonceOrder) (image : List Byte) (d : Nat) : Option Nonce :=
  searchFrom (qualifies digest order image d) (2 ^ 32) 0#32

/-- The image: the 256 cells of Memory, address 0 first (46_proof_of_work.md R106). -/
def State.image (s : State) : List Byte := s.mem.readRange 0#8 256

/-- The search at a state: its image, its DIFFICULTY, its NONCE_ORDER (46_proof_of_work.md R106). -/
def State.powSearch (digest : List Byte → Digest) (s : State) : Option Nonce :=
  search digest s.cfg.nonceOrder s.image s.cfg.difficulty.toNat

/-- POW n for a digest function: writes the found nonce to the cells `n` to `n + 3`; with no qualifying nonce it never
completes (46_proof_of_work.md R111, R113, log 11); a DIFFICULTY out of range is refused (R108, log 7). -/
def powWith (digest : List Byte → Digest) (opd : Nibble) (s : State) : StepResult :=
  if s.cfg.difficultyInRange then
    match s.powSearch digest with
    | some n => .next (s.setMem (s.mem.writeRange (cellAddress opd) (nonceBytes s.cfg.nonceOrder n)))
    | none => .next s.notCompleted
  else .refused .difficultyOutOfRange

/-- POW n: the engine's digest is the parameter DIGEST (46_proof_of_work.md R109, R111). -/
def execPow (opd : Nibble) (s : State) : StepResult := powWith Config.digest opd s

end Sys2Proof.Machine
end

