-- ==== Sys2Proof/Machine/Transfer.lean ====
section
/-! DEFINITION. LOAD and STORE (42_data_transfer.md). -/

namespace Sys2Proof.Machine

/-- LOAD n: `ACC <- MEM[n]` (42_data_transfer.md R76), the ALU's pass (40_arithmetic.md R60). -/
def execLoad (opd : Nibble) (s : State) : StepResult := .next (s.aluInto .pass opd)

/-- STORE n: `MemWrite(zext_8(opd), 1, ACC)` (42_data_transfer.md R77). -/
def execStore (opd : Nibble) (s : State) : StepResult := .next (s.writeCell (cellAddress opd) s.acc)

end Sys2Proof.Machine
end

