-- ==== Sys2Proof/Machine/Dispatch.lean ====
section
/-! DEFINITION. The handler of every instruction (30_encoding.md R55), run after the fetch has set PC = PC1. -/

namespace Sys2Proof.Machine

def exec (i : Instr) (s : State) : Host.Outcome State Fault Refusal :=
  match i with
  | .add opd => Sys2Proof.Machine.execAdd opd s
  | .sub opd => Sys2Proof.Machine.execSub opd s
  | .mul opd => Sys2Proof.Machine.execMul opd s
  | .div opd => Sys2Proof.Machine.execDiv opd s
  | .and opd => Sys2Proof.Machine.execAnd opd s
  | .or opd => Sys2Proof.Machine.execOr opd s
  | .xor opd => Sys2Proof.Machine.execXor opd s
  | .load opd => Sys2Proof.Machine.execLoad opd s
  | .store opd => Sys2Proof.Machine.execStore opd s
  | .jump opd => Sys2Proof.Machine.execJump opd s
  | .jz opd off => Sys2Proof.Machine.execJz opd off s
  | .jnz opd off => Sys2Proof.Machine.execJnz opd off s
  | .input opd => Sys2Proof.Machine.execIn opd s
  | .output opd => Sys2Proof.Machine.execOut opd s
  | .halt opd => Sys2Proof.Machine.execHalt opd s
  | .netSend opd => Sys2Proof.Machine.execNetSend opd s
  | .netRecv opd => Sys2Proof.Machine.execNetRecv opd s
  | .pow opd => Sys2Proof.Machine.execPow opd s
  | .unknown opd => Sys2Proof.Machine.execUnknown opd s

end Sys2Proof.Machine
end

