-- ==== Sys2Proof/Machine/Step.lean ====
section
/-! DEFINITION. One pass of the fetch-decode-execute loop (43_control_flow.md R80). -/

namespace Sys2Proof.Machine

/-- The handler's outcome with the end of the pass done to its next state. -/
def finishPass : StepResult → StepResult
  | .next t => .next t.endOfPass
  | .fault r => .fault r
  | .refused r => .refused r

/-- One step: it requires RUNNING = 1 (60_exceptions.md R128); the fetch increments PC before the handler runs
(43_control_flow.md R80). -/
def step (s : State) : Host.Outcome State Fault Refusal :=
  if s.running then finishPass (exec s.fetchInstr s.fetched) else .fault .notRunning

/-- The state in which the very next step fetches and runs a table word: its bytes stood at PC, and the run on
(RUNNING = 1, CAUSE = NONE; log 8). -/
def State.withFetchWord (s : State) (nbits w : Nat) : State :=
  let t := s.placeAtPc (tableBytes nbits w).1 (tableBytes nbits w).2
  { t with running := true, cause := .none }

end Sys2Proof.Machine
end

