-- ==== Sys2Proof/Safety.lean ====
section
/-! DEFINITION. What a sound state of a run is, how a run ends, and the terms statements use. -/

namespace Sys2Proof

/-- These bytes are the instruction's encoding: the encoder writes them, and in every configuration that gives the
instruction an encoding the decoder reads them back, whatever follows. -/
def Instr.EncodedAs (i : Instr) (bytes : List Byte) : Prop :=
  encode i = bytes ∧ ∀ e : Ext15, i.wellFormed e = true → ∀ rest, decode e (bytes ++ rest) = .ok (i, rest)

end Sys2Proof

namespace Sys2Proof.Machine

/-- What every state of a run keeps: memory in its canonical form; CAUSE is NONE exactly while RUNNING = 1
(10_state.md R15); the channel is absent where the configuration has none, else open while the loop runs and closed
after it (10_state.md R21, 60_exceptions.md R125); DIFFICULTY is in its range (46_proof_of_work.md R106). -/
structure State.Inv (s : State) : Prop where
  memory : s.mem.wf = true
  cause : s.cause = .none ↔ s.running = true
  channel : s.channel =
    if s.cfg.ext15.hasChannel then (if s.running then Channel.isOpen else Channel.closed) else Channel.absent
  difficulty : s.cfg.difficultyInRange = true

/-- A normal end of a run: the only one is CAUSE = HALT (60_exceptions.md R128, 70_reset_and_hazards.md R145). -/
def State.normalEnd (s : State) : Bool := !s.running && s.cause == .halt

/-- A run gone wrong: malformed or missing input, where the original's behaviour is unknown
(93_implementation_defined.md U1, log 13). -/
def State.goneWrong (s : State) : Bool := !s.running && s.cause == .inputError

/-- `k` steps of the machine (Host/Core.lean). -/
abbrev run (k : Nat) (s : State) : StepResult := Sys2Proof.core.run k s

/-- Two states a program cannot tell apart: they differ at most in what no instruction reads back, the records of output
and the counts (10_state.md R10, R25). -/
structure State.SameToProgram (s t : State) : Prop where
  pc : s.pc = t.pc
  acc : s.acc = t.acc
  mem : s.mem = t.mem
  running : s.running = t.running
  cause : s.cause = t.cause
  consoleIn : s.consoleIn = t.consoleIn
  consoleEnded : s.consoleEnded = t.consoleEnded
  channel : s.channel = t.channel
  sendAnswers : s.sendAnswers = t.sendAnswers
  recvAnswers : s.recvAnswers = t.recvAnswers
  cfg : s.cfg = t.cfg

end Sys2Proof.Machine
end

