-- ==== Sys2Proof/Certificates/Slice0/Obligations.lean ====
section
/-! DEFINITION. The statements for the provers, from the numbered rules of spec/. A handler (`exec`) sees PC = PC1; `step`
does the fetch. "The model's choice" in a docstring names the log entry a clause rests on. -/

open Sys2Proof Sys2Proof.Machine

/-! ### Encoding -/

/-- 30_encoding.md R46: the field split, for every byte value. -/
def Obligations.FieldSplitOfEveryByte : Prop :=
  ∀ ir : Byte, (opcodeField ir).toNat = ir.toNat / 16 ∧ (operandField ir).toNat = ir.toNat % 16 ∧
    ir.toNat = 16 * (opcodeField ir).toNat + (operandField ir).toNat

/-- 30_encoding.md R55: dispatch, total on the opcode field, slot 15 by EXT15. -/
def Obligations.DispatchByOpcodeField : Prop :=
  ∀ (e : Ext15) (n : Nibble) (off : Byte),
    decodeBytes e (BitVec.ofNat 8 (0x00 + n.toNat)) off = .add n ∧
    decodeBytes e (BitVec.ofNat 8 (0x10 + n.toNat)) off = .sub n ∧
    decodeBytes e (BitVec.ofNat 8 (0x20 + n.toNat)) off = .mul n ∧
    decodeBytes e (BitVec.ofNat 8 (0x30 + n.toNat)) off = .div n ∧
    decodeBytes e (BitVec.ofNat 8 (0x40 + n.toNat)) off = .and n ∧
    decodeBytes e (BitVec.ofNat 8 (0x50 + n.toNat)) off = .or n ∧
    decodeBytes e (BitVec.ofNat 8 (0x60 + n.toNat)) off = .xor n ∧
    decodeBytes e (BitVec.ofNat 8 (0x70 + n.toNat)) off = .load n ∧
    decodeBytes e (BitVec.ofNat 8 (0x80 + n.toNat)) off = .store n ∧
    decodeBytes e (BitVec.ofNat 8 (0x90 + n.toNat)) off = .jump n ∧
    decodeBytes e (BitVec.ofNat 8 (0xA0 + n.toNat)) off = .jz n off ∧
    decodeBytes e (BitVec.ofNat 8 (0xB0 + n.toNat)) off = .jnz n off ∧
    decodeBytes e (BitVec.ofNat 8 (0xC0 + n.toNat)) off = .input n ∧
    decodeBytes e (BitVec.ofNat 8 (0xD0 + n.toNat)) off = .output n ∧
    decodeBytes e (BitVec.ofNat 8 (0xE0 + n.toNat)) off = .halt n ∧
    decodeBytes e (BitVec.ofNat 8 (0xF0 + n.toNat)) off =
      match e with
      | .none => .unknown n
      | .netSend => .netSend n
      | .netRecv => .netRecv n
      | .pow => .pow n

/-- Words written out from the opcode table's patterns, one or more a family (95_test_vectors.md 2.1). -/
def Obligations.WrittenOutWordsDecode : Prop :=
  decode .netSend [0b00011010#8] = .ok (.sub 10#4, []) ∧
  decode .netSend [0b00111111#8] = .ok (.div 15#4, []) ∧
  decode .netSend [0b01011100#8] = .ok (.or 12#4, []) ∧
  decode .netSend [0b10001111#8] = .ok (.store 15#4, []) ∧
  decode .netSend [0b10010011#8] = .ok (.jump 3#4, []) ∧
  decode .netSend [0b10100111#8, 0b11111100#8] = .ok (.jz 7#4 0xFC#8, []) ∧
  decode .netSend [0b10111111#8, 0b00010000#8] = .ok (.jnz 15#4 16#8, []) ∧
  decode .netSend [0b11001001#8] = .ok (.input 9#4, []) ∧
  decode .netSend [0b11101111#8] = .ok (.halt 15#4, []) ∧
  decode .netSend [0b11110001#8] = .ok (.netSend 1#4, []) ∧
  decode .netRecv [0b11110001#8] = .ok (.netRecv 1#4, []) ∧
  decode .pow [0b11110001#8] = .ok (.pow 1#4, []) ∧
  decode .none [0b11110001#8] = .ok (.unknown 1#4, [])

/-- Decoding the encoding of an instruction the configuration has gives it back, with every field, whatever follows
(30_encoding.md R45 to R51). -/
def Obligations.EncodeThenDecode : Prop :=
  ∀ (e : Ext15) (i : Instr) (rest : List Byte), i.wellFormed e = true → decode e (encode i ++ rest) = .ok (i, rest)

/-- Disassembly is unique: what decodes is an instruction of the configuration, and its encoding is the bytes read
(30_encoding.md R58). -/
def Obligations.DecodeThenEncode : Prop :=
  ∀ (e : Ext15) (bytes : List Byte) (i : Instr) (rest : List Byte),
    decode e bytes = .ok (i, rest) → i.wellFormed e = true ∧ encode i ++ rest = bytes

/-- The spec's decision D4 (30_encoding.md R53, log 20): the five instructions that ignore the operand field, and an
unknown instruction (43_control_flow.md R86), behave alike for all its values. -/
def Obligations.IgnoredOperandFieldHasNoEffect : Prop :=
  ∀ (m n : Nibble) (off : Byte) (s : State),
    exec (.jz m off) s = exec (.jz n off) s ∧ exec (.jnz m off) s = exec (.jnz n off) s ∧
    exec (.input m) s = exec (.input n) s ∧ exec (.output m) s = exec (.output n) s ∧
    exec (.halt m) s = exec (.halt n) s ∧ exec (.unknown m) s = exec (.unknown n) s

/-! ### Reset and start-up -/

/-- 10_state.md R27, in the default configuration with the empty image and a connected channel. ACC_RESET = 0 is the
spec's decision D5 (log 4); the environment has answered nothing yet, the model's choice (log 9). -/
def Obligations.ResetLeavesTheStatedState : Prop :=
  State.reset.pc = 0#8 ∧ State.reset.acc = State.reset.cfg.accReset ∧ State.reset.cfg.accReset = 0#8 ∧
  (∀ a : Byte, State.reset.mem.read a = 0#8) ∧ State.reset.running = true ∧ State.reset.cause = .none ∧
  State.reset.consoleTaken = 0 ∧ State.reset.consoleOut = [] ∧ State.reset.sent = [] ∧ State.reset.received = 0 ∧
  State.reset.channel = .isOpen ∧ State.reset.cfg.ext15 = .netSend ∧ State.reset.cfg.jbase = .zero ∧
  State.reset.cfg.nonceOrder = .le ∧ startUp Config.default (some []) Environment.silent = .next State.reset

/-- Start-up from an image of at most 256 bytes (70_reset_and_hazards.md R140, R143, 10_state.md R23; the configurations
with a channel are the spec's decision D16, log 16): MEM0 is the image and then zeros; a failed connection stands stopped
with CAUSE = NET_ERROR and PC = 0, everything else starts running. -/
def Obligations.StartUpLoadsAndConnects : Prop :=
  ∀ (c : Config) (image : List Byte) (env : Environment),
    image.length ≤ 256 → 0 ≤ c.difficulty → c.difficulty ≤ 256 →
    ∃ s, startUp c (some image) env = .next s ∧ s.pc = 0#8 ∧ s.acc = c.accReset ∧ s.cfg = c ∧
      (∀ a : Byte, s.mem.read a = image.getD a.toNat 0#8) ∧
      s.consoleOut = [] ∧ s.sent = [] ∧ s.consoleTaken = 0 ∧ s.received = 0 ∧
      s.consoleIn = env.consoleIn ∧ s.consoleEnded = env.consoleEnded ∧ s.sendAnswers = env.sendAnswers ∧
      s.recvAnswers = env.recvAnswers ∧
      (c.ext15 = .netSend ∨ c.ext15 = .netRecv →
        (env.connects = true → s.running = true ∧ s.cause = .none ∧ s.channel = .isOpen) ∧
        (env.connects = false → s.running = false ∧ s.cause = .netError ∧ s.channel = .closed)) ∧
      (c.ext15 = .none ∨ c.ext15 = .pow → s.running = true ∧ s.cause = .none ∧ s.channel = .absent)

/-- What gives no run: a load failure (60_exceptions.md R127); and, the model's choices, an image over 256 bytes (log 24)
and a DIFFICULTY out of range (log 7), which POW refuses too. -/
def Obligations.StartUpAndPowRefusals : Prop :=
  ∀ (c : Config) (image : List Byte) (env : Environment) (n : Nibble) (s : State),
    startUp c none env = .fault .loadFailure ∧
    (256 < image.length → startUp c (some image) env = .refused .imageTooLong) ∧
    (image.length ≤ 256 → c.difficulty < 0 ∨ 256 < c.difficulty →
      startUp c (some image) env = .refused .difficultyOutOfRange) ∧
    (s.cfg.difficulty < 0 ∨ 256 < s.cfg.difficulty → exec (.pow n) s = .refused .difficultyOutOfRange)

/-! ### Memory -/

/-- `MemWrite` and `MemRead` of up to 256 bytes, addresses mod 256 (20_memory.md R31, R32): the written bytes are read
back, every other cell is as it was. -/
def Obligations.MemWriteThenMemRead : Prop :=
  ∀ (m : Memory) (a : Byte) (vs : List Byte), vs.length ≤ 256 →
    (m.writeRange a vs).readRange a vs.length = vs ∧
    ∀ b : Byte, (∀ i < vs.length, b ≠ a + BitVec.ofNat 8 i) → (m.writeRange a vs).read b = m.read b

/-- Memory is its 256 cells and nothing else (10_state.md R16): two canonical memories that read alike are equal. -/
def Obligations.CanonicalMemoriesAreEqual : Prop :=
  ∀ m m' : Memory, m.wf = true → m'.wf = true → (∀ a : Byte, m.read a = m'.read a) → m = m'

/-! ### Arithmetic, logic, data transfer -/

/-- 40_arithmetic.md R61, with its encoding; only ACC changes. -/
def Obligations.AddWrapsModulo256 : Prop :=
  ∀ (n : Nibble) (s : State), (Instr.add n).EncodedAs [BitVec.ofNat 8 (0x00 + n.toNat)] ∧
    ∃ t, exec (.add n) s = .next t ∧ t = { s with acc := t.acc } ∧
      t.acc.toNat = (s.acc.toNat + (s.mem.read (BitVec.ofNat 8 n.toNat)).toNat) % 256

/-- 40_arithmetic.md R62, with its encoding; only ACC changes. -/
def Obligations.SubWrapsModulo256 : Prop :=
  ∀ (n : Nibble) (s : State), (Instr.sub n).EncodedAs [BitVec.ofNat 8 (0x10 + n.toNat)] ∧
    ∃ t, exec (.sub n) s = .next t ∧ t = { s with acc := t.acc } ∧
      (t.acc.toNat : Int) = ((s.acc.toNat : Int) - ((s.mem.read (BitVec.ofNat 8 n.toNat)).toNat : Int)) % 256

/-- 40_arithmetic.md R63, with its encoding; only ACC changes. -/
def Obligations.MulKeepsTheLowByte : Prop :=
  ∀ (n : Nibble) (s : State), (Instr.mul n).EncodedAs [BitVec.ofNat 8 (0x20 + n.toNat)] ∧
    ∃ t, exec (.mul n) s = .next t ∧ t = { s with acc := t.acc } ∧
      t.acc.toNat = (s.acc.toNat * (s.mem.read (BitVec.ofNat 8 n.toNat)).toNat) % 256

/-- 40_arithmetic.md R64, with its encoding; only ACC changes. Rounding toward zero is the spec's decision D6 (R65,
log 15). -/
def Obligations.DivGivesTheUnsignedQuotient : Prop :=
  ∀ (n : Nibble) (s : State), (Instr.div n).EncodedAs [BitVec.ofNat 8 (0x30 + n.toNat)] ∧
    ∃ t, exec (.div n) s = .next t ∧ t = { s with acc := t.acc } ∧
      (s.mem.read (BitVec.ofNat 8 n.toNat) = 0#8 → t.acc = s.acc) ∧
      (s.mem.read (BitVec.ofNat 8 n.toNat) ≠ 0#8 →
        t.acc.toNat = s.acc.toNat / (s.mem.read (BitVec.ofNat 8 n.toNat)).toNat)

/-- 60_exceptions.md R129: a division by zero completes like any instruction and the run goes on. -/
def Obligations.DivisionByZeroIsNoEvent : Prop :=
  ∀ (n : Nibble) (s : State), s.running = true → s.fetchInstr = .div n →
    s.mem.read (BitVec.ofNat 8 n.toNat) = 0#8 →
    ∃ t, step s = .next t ∧ t = { s with pc := s.pc + 1#8 } ∧ t.running = true ∧
      step t = finishPass (exec t.fetchInstr { t with pc := t.pc + 1#8 })

/-- 41_logic.md R71, with its encoding; only ACC changes. That the right operand is the operand cell is derived in the
spec (R70) and DEDUCED here (log 28). -/
def Obligations.AndIsBitwise : Prop :=
  ∀ (n : Nibble) (s : State), (Instr.and n).EncodedAs [BitVec.ofNat 8 (0x40 + n.toNat)] ∧
    ∃ t, exec (.and n) s = .next t ∧ t = { s with acc := t.acc } ∧
      ∀ i < 8, t.acc.getLsbD i = (s.acc.getLsbD i && (s.mem.read (BitVec.ofNat 8 n.toNat)).getLsbD i)

/-- 41_logic.md R72, with its encoding; only ACC changes. That the right operand is the operand cell is derived in the
spec (R70) and DEDUCED here (log 28). -/
def Obligations.OrIsBitwise : Prop :=
  ∀ (n : Nibble) (s : State), (Instr.or n).EncodedAs [BitVec.ofNat 8 (0x50 + n.toNat)] ∧
    ∃ t, exec (.or n) s = .next t ∧ t = { s with acc := t.acc } ∧
      ∀ i < 8, t.acc.getLsbD i = (s.acc.getLsbD i || (s.mem.read (BitVec.ofNat 8 n.toNat)).getLsbD i)

/-- 41_logic.md R73, with its encoding; only ACC changes. That the right operand is the operand cell is derived in the
spec (R70) and DEDUCED here (log 28). -/
def Obligations.XorIsBitwise : Prop :=
  ∀ (n : Nibble) (s : State), (Instr.xor n).EncodedAs [BitVec.ofNat 8 (0x60 + n.toNat)] ∧
    ∃ t, exec (.xor n) s = .next t ∧ t = { s with acc := t.acc } ∧
      ∀ i < 8, t.acc.getLsbD i = (s.acc.getLsbD i ^^ (s.mem.read (BitVec.ofNat 8 n.toNat)).getLsbD i)

/-- 42_data_transfer.md R76, with its encoding; only ACC changes. -/
def Obligations.LoadReadsTheCell : Prop :=
  ∀ (n : Nibble) (s : State), (Instr.load n).EncodedAs [BitVec.ofNat 8 (0x70 + n.toNat)] ∧
    exec (.load n) s = .next { s with acc := s.mem.read (BitVec.ofNat 8 n.toNat) }

/-- 42_data_transfer.md R77, with its encoding: the cell `zext_8(opd)` takes ACC, every other cell and all else is
unchanged. -/
def Obligations.StoreWritesOneCell : Prop :=
  ∀ (n : Nibble) (s : State), (Instr.store n).EncodedAs [BitVec.ofNat 8 (0x80 + n.toNat)] ∧
    (cellAddress n).toNat = n.toNat ∧
    ∃ t, exec (.store n) s = .next t ∧ t = { s with mem := t.mem } ∧
      ∀ a : Byte, a = cellAddress n → t.mem.read a = s.acc ∧ ∀ b : Byte, b ≠ a → t.mem.read b = s.mem.read b

/-- 42_data_transfer.md R78: STORE o; LOAD o, run from memory, where the STORE does not overwrite the LOAD. -/
def Obligations.StoreThenLoadRoundTrip : Prop :=
  ∀ (o : Nibble) (s : State), s.running = true →
    s.mem.read s.pc = BitVec.ofNat 8 (0x80 + o.toNat) →
    s.mem.read (s.pc + 1#8) = BitVec.ofNat 8 (0x70 + o.toNat) →
    cellAddress o ≠ s.pc + 1#8 →
    ∃ t, run 2 s = .next t ∧ t.acc = s.acc ∧ t.mem.read (cellAddress o) = s.acc ∧ t.pc = s.pc + 2#8 ∧
      t.running = true ∧ ∀ a : Byte, a ≠ cellAddress o → t.mem.read a = s.mem.read a

/-! ### Control flow -/

/-- 43_control_flow.md R82, with its encoding; only PC changes. -/
def Obligations.JumpSetsPc : Prop :=
  ∀ (n : Nibble) (s : State), (Instr.jump n).EncodedAs [BitVec.ofNat 8 (0x90 + n.toNat)] ∧
    ∃ t, exec (.jump n) s = .next t ∧ t = { s with pc := t.pc } ∧ t.pc.toNat = n.toNat

/-- 43_control_flow.md R83, for both values of JBASE (the spec's decision D3, log 3): PC is the address of the offset
byte; only PC changes. -/
def Obligations.JzBranchesOnZero : Prop :=
  ∀ (n : Nibble) (off : Byte) (s : State), (Instr.jz n off).EncodedAs [BitVec.ofNat 8 (0xA0 + n.toNat), off] ∧
    ∃ t, exec (.jz n off) s = .next t ∧ t = { s with pc := t.pc } ∧
      (s.acc = 0#8 → (t.pc.toNat : Int) =
        ((s.pc.toNat : Int) + (if s.cfg.jbase = .one then 1 else 0) + off.toInt) % 256) ∧
      (s.acc ≠ 0#8 → t.pc.toNat = (s.pc.toNat + 1) % 256)

/-- 43_control_flow.md R84, JZ with the inverted condition, for both values of JBASE (log 3); only PC changes. -/
def Obligations.JnzBranchesOnNonzero : Prop :=
  ∀ (n : Nibble) (off : Byte) (s : State), (Instr.jnz n off).EncodedAs [BitVec.ofNat 8 (0xB0 + n.toNat), off] ∧
    ∃ t, exec (.jnz n off) s = .next t ∧ t = { s with pc := t.pc } ∧
      (s.acc ≠ 0#8 → (t.pc.toNat : Int) =
        ((s.pc.toNat : Int) + (if s.cfg.jbase = .one then 1 else 0) + off.toInt) % 256) ∧
      (s.acc = 0#8 → t.pc.toNat = (s.pc.toNat + 1) % 256)

/-- 43_control_flow.md R85: the handler stops the loop; the step leaves PC = PC1, ACC and Memory, closes the channel where
there is one, and no further instruction executes. That the channel closes inside the stopping step is the model's choice
(log 16), and PC = PC1 after a stop is DEDUCED from the loop order (the spec's decision D11, log 21). -/
def Obligations.HaltEndsTheRun : Prop :=
  ∀ (n : Nibble) (s : State), (Instr.halt n).EncodedAs [BitVec.ofNat 8 (0xE0 + n.toNat)] ∧
    exec (.halt n) s = .next { s with running := false, cause := .halt } ∧
    (s.running = true → s.fetchInstr = .halt n →
      ∃ t, step s = .next t ∧
        t = { s with pc := s.pc + 1#8, running := false, cause := .halt, channel := t.channel } ∧
        (s.channel = .absent → t.channel = .absent) ∧ (s.channel = .isOpen → t.channel = .closed) ∧
        ∀ u, step t ≠ .next u)

/-- 43_control_flow.md R86: an unknown instruction stops the loop, PC = PC1 (DEDUCED, the spec's decision D11,
log 21). -/
def Obligations.UnknownInstructionEndsTheRun : Prop :=
  ∀ (n : Nibble) (s : State),
    exec (.unknown n) s = .next { s with running := false, cause := .unknownInstruction } ∧
    (s.running = true → s.cfg.ext15 = .none → s.mem.read s.pc = BitVec.ofNat 8 (0xF0 + n.toNat) →
      ∃ t, step s = .next t ∧ t.running = false ∧ t.cause = .unknownInstruction ∧ t.pc = s.pc + 1#8 ∧
        t.acc = s.acc ∧ t.mem = s.mem ∧ ∀ u, step t ≠ .next u)

/-! ### Console -/

/-- 44_console_io.md R91, `Int(n)`: n mod 256 for every integer is the spec's decision D7 (log 14). One token is
consumed; ACC changes and nothing else. -/
def Obligations.InStoresTheLowByte : Prop :=
  ∀ (n : Nibble) (s : State) (k : Int) (rest : List ConsoleToken), s.consoleIn = .int k :: rest →
    ∃ t, exec (.input n) s = .next t ∧ (t.acc.toNat : Int) = k % 256 ∧
      t = { s with acc := t.acc, consoleIn := rest, consoleTaken := s.consoleTaken + 1 }

/-- 44_console_io.md R91, `Bad`: a malformed token, or the end of the stream, stops with INPUT_ERROR and leaves ACC and
Memory, the spec's decision D8 (log 13). -/
def Obligations.InStopsOnBadInput : Prop :=
  ∀ (n : Nibble) (s : State),
    (∀ rest, s.consoleIn = .bad :: rest → exec (.input n) s = .next { s with
      running := false, cause := .inputError, consoleIn := rest, consoleTaken := s.consoleTaken + 1 }) ∧
    (s.consoleIn = [] → s.consoleEnded = true →
      exec (.input n) s = .next { s with running := false, cause := .inputError })

/-- 44_console_io.md R92, with its encoding: ACC is appended to the output, its text is one line of decimal digits; ACC
and all else is unchanged. The form of the text, without sign or leading zeros (10_state.md R20), is the spec's decision
D9, and its line-end character is left out by the model's choice (log 25). -/
def Obligations.OutAppendsAcc : Prop :=
  ∀ (n : Nibble) (s : State), (Instr.output n).EncodedAs [BitVec.ofNat 8 (0xD0 + n.toNat)] ∧
    exec (.output n) s = .next { s with consoleOut := s.consoleOut ++ [s.acc] } ∧
    State.consoleLines { s with consoleOut := s.consoleOut ++ [s.acc] } =
      s.consoleLines ++ [(Nat.digits 10 s.acc.toNat).reverse ++ if s.acc = 0#8 then [0] else []]

/-! ### Network -/

/-- 45_network.md R96: on Ok the cell's byte is appended to the bytes sent; on Fail the run stops with NET_ERROR, the
failed byte not recorded (log 19). ACC, Memory and PC are unchanged in both. -/
def Obligations.NetSendSendsTheCell : Prop :=
  ∀ (n : Nibble) (s : State) (rest : List SendAnswer), s.channel = .isOpen →
    (s.sendAnswers = .ok :: rest → exec (.netSend n) s = .next { s with
      sendAnswers := rest, sent := s.sent ++ [s.mem.read (BitVec.ofNat 8 n.toNat)] }) ∧
    (s.sendAnswers = .fail :: rest → exec (.netSend n) s = .next { s with
      sendAnswers := rest, running := false, cause := .netError })

/-- 45_network.md R97: the received byte goes to the cell, every other cell is unchanged; on Fail the run stops with
NET_ERROR and Memory is unchanged (the spec's decision D17, log 19). -/
def Obligations.NetRecvStoresTheByte : Prop :=
  ∀ (n : Nibble) (s : State) (rest : List RecvAnswer), s.channel = .isOpen →
    (∀ b, s.recvAnswers = .byte b :: rest → ∃ t, exec (.netRecv n) s = .next t ∧
      t = { s with mem := t.mem, recvAnswers := rest, received := s.received + 1 } ∧
      ∀ a : Byte, a = cellAddress n → t.mem.read a = b ∧ ∀ c : Byte, c ≠ a → t.mem.read c = s.mem.read c) ∧
    (s.recvAnswers = .fail :: rest → exec (.netRecv n) s = .next { s with
      recvAnswers := rest, running := false, cause := .netError })

/-- The model's choice (log 18): the handlers of the two transfers stop by name where no channel is open, which no state
of a run reaches (the invariant of `StepKeepsTheInvariant`). -/
def Obligations.TransferNeedsTheOpenChannel : Prop :=
  ∀ (n : Nibble) (s : State), s.channel ≠ .isOpen →
    exec (.netSend n) s = .fault .channelNotOpen ∧ exec (.netRecv n) s = .fault .channelNotOpen

/-- 60_exceptions.md R125, R124: a failed transfer ends the run after releasing the channel, in the same step by the model's
choice (log 16). That a failed receive leaves Memory (the spec's decision D17) and a failed send is not recorded (its U17)
is log 19; PC = PC + 1 after the stop is DEDUCED (the spec's decision D11, log 21). -/
def Obligations.TransportFailureReleasesTheChannel : Prop :=
  ∀ (n : Nibble) (s : State), s.running = true → s.channel = .isOpen →
    (s.fetchInstr = .netSend n ∧ s.sendAnswers.head? = some .fail) ∨
      (s.fetchInstr = .netRecv n ∧ s.recvAnswers.head? = some .fail) →
    ∃ t, step s = .next t ∧ t.running = false ∧ t.cause = .netError ∧ t.channel = .closed ∧ t.pc = s.pc + 1#8 ∧
      t.acc = s.acc ∧ t.mem = s.mem ∧ t.sent = s.sent ∧ ∀ u, step t ≠ .next u

/-! ### Proof-of-work -/

/-- 46_proof_of_work.md R107: the nonce's bytes in both orders and the 260-byte candidate block (the order is the
parameter NONCE_ORDER, log 6). -/
def Obligations.CandidateBlockAppendsTheNonce : Prop :=
  ∀ (n : Nonce) (s : State) (order : NonceOrder),
    (nonceBytes .le n).map BitVec.toNat =
      [n.toNat % 256, n.toNat / 2 ^ 8 % 256, n.toNat / 2 ^ 16 % 256, n.toNat / 2 ^ 24] ∧
    nonceBytes .be n = (nonceBytes .le n).reverse ∧
    (candidateBlock order s.image n).length = 260 ∧
    (∀ a : Byte, (candidateBlock order s.image n)[a.toNat]? = some (s.mem.read a)) ∧
    (candidateBlock order s.image n).drop 256 = nonceBytes order n

/-- 46_proof_of_work.md R108: the target has 32 bytes and is `2^256 - 2^(256 - d)`. -/
def Obligations.TargetIsTopBitsSet : Prop :=
  ∀ d : Nat, d ≤ 256 → (target d).length = 32 ∧ bigEndian (target d) = 2 ^ 256 - 2 ^ (256 - d)

/-- 46_proof_of_work.md R109 (derived in the spec from R108): a digest is below the target exactly when its top `d` bits,
MSB first, byte-major, are not all ones. -/
def Obligations.BelowTargetIffTopBitsNotAllOnes : Prop :=
  ∀ (h : Digest) (d : Nat), d ≤ 256 →
    (bigEndian h.toList < bigEndian (target d) ↔
      ∃ i < d, ((h.toList.getD (i / 8) 0#8).getLsbD (7 - i % 8)) = false)

/-- 46_proof_of_work.md R109: comparing byte sequences of one length lexicographically from byte 0, bytes as unsigned,
gives the verdict of the big-endian comparison. -/
def Obligations.BigEndianOrderIsLexicographic : Prop :=
  ∀ x y : List Byte, x.length = y.length →
    (bigEndian x < bigEndian y ↔ List.Lex (fun a b : Byte => a.toNat < b.toNat) x y)

/-- 46_proof_of_work.md R110: the search yields the least qualifying nonce, and yields none exactly when no nonce
qualifies, whatever the digest. The spec's search never returns where no nonce qualifies (its decision D15); that the model's
search then answers none, after 2^32 trials, is the model's choice (log 11). -/
def Obligations.SearchYieldsTheLeastNonce : Prop :=
  ∀ (digest : List Byte → Digest) (order : NonceOrder) (image : List Byte) (d : Nat),
    (∀ r : Nonce, search digest order image d = some r ↔
      qualifies digest order image d r = true ∧
        ∀ m : Nonce, m.toNat < r.toNat → qualifies digest order image d m = false) ∧
    (search digest order image d = none ↔ ∀ m : Nonce, qualifies digest order image d m = false)

/-- 46_proof_of_work.md R109: a larger difficulty makes the search easier: a nonce found is found no later. -/
def Obligations.LargerDifficultyFindsNoLater : Prop :=
  ∀ (digest : List Byte → Digest) (order : NonceOrder) (image : List Byte) (d d' : Nat) (r : Nonce),
    d ≤ d' → d' ≤ 256 → search digest order image d = some r →
    ∃ r', search digest order image d' = some r' ∧ r'.toNat ≤ r.toNat

/-- 46_proof_of_work.md R111 for every digest, the engine's among them: with the least qualifying nonce `r` of the image,
POW n writes its 4 bytes to the cells n to n + 3, in the order of the parameter NONCE_ORDER (log 6), and changes nothing
else. -/
def Obligations.PowWritesTheLeastNonce : Prop :=
  ∀ (digest : List Byte → Digest) (n : Nibble) (s : State) (r : Nonce),
    0 ≤ s.cfg.difficulty → s.cfg.difficulty ≤ 256 →
    qualifies digest s.cfg.nonceOrder s.image s.cfg.difficulty.toNat r = true →
    (∀ m : Nonce, m.toNat < r.toNat → qualifies digest s.cfg.nonceOrder s.image s.cfg.difficulty.toNat m = false) →
    ∃ t, powWith digest n s = .next t ∧ (digest = Config.digest → exec (.pow n) s = .next t) ∧
      t = { s with mem := t.mem } ∧
      (∀ i < 4, t.mem.read (cellAddress n + BitVec.ofNat 8 i) = (nonceBytes s.cfg.nonceOrder r).getD i 0#8) ∧
      ∀ b : Byte, (∀ i < 4, b ≠ cellAddress n + BitVec.ofNat 8 i) → t.mem.read b = s.mem.read b

/-- 46_proof_of_work.md R110, R111, R113: with a DIFFICULTY in range POW answers for every state. Either some nonce
qualifies, and the least one's bytes are written; or none does, and the step is not completed (the model's choice, log 11:
the state before the fetch). The bytes' order is the parameter NONCE_ORDER (log 6). -/
def Obligations.PowCompletesOrSearchesForEver : Prop :=
  ∀ (n : Nibble) (s : State), 0 ≤ s.cfg.difficulty → s.cfg.difficulty ≤ 256 →
    ∃ t, exec (.pow n) s = .next t ∧
      ((∃ r : Nonce, qualifies Config.digest s.cfg.nonceOrder s.image s.cfg.difficulty.toNat r = true ∧
          (∀ m : Nonce, m.toNat < r.toNat →
            qualifies Config.digest s.cfg.nonceOrder s.image s.cfg.difficulty.toNat m = false) ∧
          t = { s with mem := t.mem } ∧
          (∀ i < 4, t.mem.read (cellAddress n + BitVec.ofNat 8 i) = (nonceBytes s.cfg.nonceOrder r).getD i 0#8) ∧
          ∀ b : Byte, (∀ i < 4, b ≠ cellAddress n + BitVec.ofNat 8 i) → t.mem.read b = s.mem.read b) ∨
        ((∀ m : Nonce, qualifies Config.digest s.cfg.nonceOrder s.image s.cfg.difficulty.toNat m = false) ∧
          t = { s with pc := s.pc - 1#8 }))

/-- 46_proof_of_work.md R113: with DIFFICULTY = 0 no POW completes, whatever the image and the digest; RUNNING stays 1 and
no cause is set, however many steps (log 11). -/
def Obligations.DifficultyZeroNeverCompletes : Prop :=
  (∀ (digest : List Byte → Digest) (order : NonceOrder) (image : List Byte), search digest order image 0 = none) ∧
  ∀ (n : Nibble) (s : State) (k : Nat), s.running = true → s.cfg.difficulty = 0 → s.fetchInstr = .pow n →
    run k s = .next s

/-! ### The loop, stops, waits -/

/-- 43_control_flow.md R80: where the bytes at PC decode to an instruction, a step of the running engine is its handler on
the state with PC incremented; after a handler that stopped the loop the channel is closed (log 16). -/
def Obligations.StepRunsTheDecodedInstruction : Prop :=
  ∀ (s : State) (i : Instr) (rest : List Byte), s.running = true →
    decode s.cfg.ext15 (s.mem.readRange s.pc 2) = .ok (i, rest) →
    s.fetchInstr = i ∧
    (∀ t, exec i { s with pc := s.pc + 1#8 } = .next t → t.running = true → step s = .next t) ∧
    (∀ t, exec i { s with pc := s.pc + 1#8 } = .next t → t.running = false →
      step s = .next { t with channel := if t.channel = .absent then .absent else .closed }) ∧
    (∀ f, exec i { s with pc := s.pc + 1#8 } = .fault f → step s = .fault f) ∧
    (∀ f, exec i { s with pc := s.pc + 1#8 } = .refused f → step s = .refused f)

/-- 43_control_flow.md R81: the value PC holds after a step, unless an instruction that can wait or search (opcodes 12 and
15) did not complete and left the state as it was (logs 10, 11). JBASE is a parameter (log 3); PC after a stop is DEDUCED
(log 21). -/
def Obligations.PcAfterAStep : Prop :=
  ∀ s t : State, step s = .next t →
    (t = s ∧ ((s.mem.read s.pc).toNat / 16 = 12 ∨ (s.mem.read s.pc).toNat / 16 = 15)) ∨
    (t.pc.toNat : Int) = match s.fetchInstr with
      | .jump n => (n.toNat : Int)
      | .jz _ off => if s.acc = 0#8
          then ((s.pc.toNat : Int) + 1 + s.cfg.jbase.toInt + off.toInt) % 256 else ((s.pc.toNat : Int) + 2) % 256
      | .jnz _ off => if s.acc ≠ 0#8
          then ((s.pc.toNat : Int) + 1 + s.cfg.jbase.toInt + off.toInt) % 256 else ((s.pc.toNat : Int) + 2) % 256
      | _ => ((s.pc.toNat : Int) + 1) % 256

/-- 60_exceptions.md R121, R124: the complete list of what stops the loop, told from the opcode field and the
configuration; every stop leaves PC = PC1 (DEDUCED, log 21), ACC and Memory (bad input: the spec's decision D8, log 13; a
failed transfer: log 19). -/
def Obligations.StopsAreListedAndPrecise : Prop :=
  ∀ s t : State, step s = .next t → t.running = false →
    t.pc = s.pc + 1#8 ∧ t.acc = s.acc ∧ t.mem = s.mem ∧
    ((t.cause = .halt ∧ (s.mem.read s.pc).toNat / 16 = 14) ∨
     (t.cause = .unknownInstruction ∧ (s.mem.read s.pc).toNat / 16 = 15 ∧ s.cfg.ext15 = .none) ∨
     (t.cause = .inputError ∧ (s.mem.read s.pc).toNat / 16 = 12) ∨
     (t.cause = .netError ∧ (s.mem.read s.pc).toNat / 16 = 15 ∧
       (s.cfg.ext15 = .netSend ∨ s.cfg.ext15 = .netRecv)))

/-- 60_exceptions.md R128 (the spec's decision D25): a stopped engine has no step; the model's name for that is the fault
`notRunning` (log 12). -/
def Obligations.StoppedEngineHasNoStep : Prop :=
  ∀ s : State, s.running = false → step s = .fault .notRunning

/-- 60_exceptions.md R130 (a) to (c): while the environment does not answer, an instruction that waits for it changes
nothing, however many steps (the model's choice of form, log 10). -/
def Obligations.UnansweredWaitChangesNothing : Prop :=
  ∀ (n : Nibble) (s : State) (k : Nat), s.running = true →
    (s.fetchInstr = .input n ∧ s.consoleIn = [] ∧ s.consoleEnded = false) ∨
      (s.fetchInstr = .netSend n ∧ s.channel = .isOpen ∧ s.sendAnswers = []) ∨
      (s.fetchInstr = .netRecv n ∧ s.channel = .isOpen ∧ s.recvAnswers = []) →
    run k s = .next s

/-- 20_memory.md R41: a STORE into the very next cell is seen by the next fetch; the byte stored is the instruction then
run. The spec's decision D22, DEDUCED (log 29). -/
def Obligations.NextFetchSeesTheStore : Prop :=
  ∀ (n : Nibble) (s : State), s.running = true → s.mem.read s.pc = BitVec.ofNat 8 (0x80 + n.toNat) →
    cellAddress n = s.pc + 1#8 →
    ∃ t, step s = .next t ∧ t.pc = s.pc + 1#8 ∧ t.acc = s.acc ∧
      t.fetchInstr = decodeBytes s.cfg.ext15 s.acc (s.mem.read (s.pc + 2#8)) ∧
      step t = finishPass (exec (decodeBytes s.cfg.ext15 s.acc (s.mem.read (s.pc + 2#8))) { t with pc := t.pc + 1#8 })

/-! ### The whole machine -/

/-- The reset state is sound (10_state.md R27, R15). DIFFICULTY = 8 at reset and its range are the model's choice (log 7), and
so is the form of the invariant's channel clause, closed inside the stopping step (log 16). -/
def Obligations.ResetMeetsTheInvariant : Prop := State.reset.Inv

/-- Every state start-up leaves is sound, in every configuration and environment (70_reset_and_hazards.md R140;
the range of DIFFICULTY is log 7, the channel's part log 16). -/
def Obligations.StartUpMeetsTheInvariant : Prop :=
  ∀ (c : Config) (image : Option (List Byte)) (env : Environment) (s : State),
    startUp c image env = .next s → s.Inv

/-- Every step keeps the invariant: canonical memory, CAUSE = NONE exactly while running (10_state.md R15), the channel
open exactly while the loop of a configuration with a channel runs (10_state.md R21, 60_exceptions.md R125; the channel is
closed inside the stopping step, log 16), DIFFICULTY in range (log 7). -/
def Obligations.StepKeepsTheInvariant : Prop :=
  ∀ s t : State, s.Inv → step s = .next t → t.Inv

/-- No running engine is stuck: from every sound running state a step answers a next state (60_exceptions.md R121, R123:
nothing faults). A wait without an answer and an endless search count as steps, by the model's choice (logs 10, 11). -/
def Obligations.RunningEngineHasAStep : Prop :=
  ∀ s : State, s.Inv → s.running = true → ∃ t, step s = .next t

/-- 30_encoding.md R51, 10_state.md R28: no instruction changes the configuration, in any number of steps; nor does a run
set RUNNING again once it is 0 (10_state.md R14). -/
def Obligations.RunKeepsTheConfiguration : Prop :=
  ∀ (k : Nat) (s t : State), run k s = .next t → t.cfg = s.cfg ∧ (t.running = true → s.running = true)

/-- 10_state.md R11: ACC is written by ADD to XOR, LOAD and IN only, told from the opcode field. -/
def Obligations.AccIsWrittenByTheListedOnly : Prop :=
  ∀ s t : State, step s = .next t → t.acc ≠ s.acc →
    (s.mem.read s.pc).toNat / 16 ≤ 7 ∨ (s.mem.read s.pc).toNat / 16 = 12

/-- 20_memory.md R30, R32: memory is written by STORE, NET_RECV and POW only; cells 16 to 18 by POW only; cells 19 to 255 by
nothing. -/
def Obligations.CellsAreWrittenByTheListedOnly : Prop :=
  ∀ (s t : State) (a : Byte), step s = .next t → t.mem.read a ≠ s.mem.read a →
    a.toNat ≤ 18 ∧
    (((s.mem.read s.pc).toNat / 16 = 8 ∧ a.toNat ≤ 15) ∨
     ((s.mem.read s.pc).toNat / 16 = 15 ∧ s.cfg.ext15 = .netRecv ∧ a.toNat ≤ 15) ∨
     ((s.mem.read s.pc).toNat / 16 = 15 ∧ s.cfg.ext15 = .pow))

/-- 20_memory.md R39: the streams are ordered by program order: over any run what was written or sent before stays, in
front, and tokens and received bytes are taken from the front. -/
def Obligations.StreamsKeepTheirOrder : Prop :=
  ∀ (k : Nat) (s t : State), run k s = .next t →
    s.consoleOut <+: t.consoleOut ∧ s.sent <+: t.sent ∧
    t.consoleIn <:+ s.consoleIn ∧ s.consoleIn.length + s.consoleTaken = t.consoleIn.length + t.consoleTaken ∧
    t.sendAnswers <:+ s.sendAnswers ∧ t.recvAnswers <:+ s.recvAnswers ∧ s.received ≤ t.received

/-- 10_state.md R25: nothing a program does depends on what it has written, sent, taken or received before, beyond MEM and
the registers: runs from two states that differ only in those records stay alike and write and send the same. -/
def Obligations.RecordsAreNeverReadBack : Prop :=
  ∀ (k : Nat) (s s' t : State), s.SameToProgram s' → run k s = .next t →
    ∃ t', run k s' = .next t' ∧ t.SameToProgram t' ∧
      (∃ out, t.consoleOut = s.consoleOut ++ out ∧ t'.consoleOut = s'.consoleOut ++ out) ∧
      ∃ bytes, t.sent = s.sent ++ bytes ∧ t'.sent = s'.sent ++ bytes
end

