-- ==== Sys2Proof/Laws/Decoder.lean ====
section
/-! SUPPORT. Small facts of the decoder's fields. -/

namespace Sys2Proof

@[simp] theorem opcodeField_packFields (opc opd : Nibble) : opcodeField (packFields opc opd) = opc := by
  revert opc opd; decide

@[simp] theorem operandField_packFields (opc opd : Nibble) : operandField (packFields opc opd) = opd := by
  revert opc opd; decide

/-- The field split loses nothing. -/
theorem packFields_fields (ir : Byte) : packFields (opcodeField ir) (operandField ir) = ir := by
  revert ir; decide

/-- Every opcode byte a slot-15 row has is spelt by its operand field alone. -/
theorem dispatch_slot15 (e : Ext15) (opd : Nibble) (off : Byte) : dispatch e 15#4 opd off = slot15 e opd := rfl

/-- The operation bound to slot 15 has an encoding in that configuration. -/
theorem wellFormed_slot15 (e : Ext15) (opd : Nibble) : (slot15 e opd).wellFormed e = true := by
  cases e <;> rfl

/-- What dispatch yields has an encoding in the configuration, and that encoding is made of the fields dispatched on. -/
theorem dispatch_fields (e : Ext15) (opc opd : Nibble) (off : Byte) :
    (dispatch e opc opd off).wellFormed e = true ∧ (dispatch e opc opd off).opcode = opc ∧
      (dispatch e opc opd off).operand = opd ∧
      (dispatch e opc opd off).tail = if lengthOfOpcode opc = 2 then [off] else [] := by
  have all : opc = 0 ∨ opc = 1 ∨ opc = 2 ∨ opc = 3 ∨ opc = 4 ∨ opc = 5 ∨ opc = 6 ∨ opc = 7 ∨ opc = 8 ∨ opc = 9 ∨
      opc = 10 ∨ opc = 11 ∨ opc = 12 ∨ opc = 13 ∨ opc = 14 ∨ opc = 15 := by revert opc; decide
  rcases all with rfl | rfl | rfl | rfl | rfl | rfl | rfl | rfl | rfl | rfl | rfl | rfl | rfl | rfl | rfl | rfl <;>
    cases e <;> exact ⟨rfl, rfl, rfl, rfl⟩

end Sys2Proof
end

