-- ==== Sys2Proof/Laws/Memory.lean ====
section
/-! SUPPORT. The laws of memory: a read after a write, and that every memory operation keeps the canonical form. -/

namespace Sys2Proof.Machine

/-! ### Cells -/

theorem cell_eraseCell_self (m : Memory) (a : Nat) : (m.eraseCell a).cell a = 0#8 := by
  induction m with
  | nil => rfl
  | cons c rest ih =>
    obtain ⟨b, w⟩ := c
    by_cases h : b = a
    · simpa [Memory.eraseCell, h] using ih
    · simpa [Memory.eraseCell, Memory.cell, h] using ih

theorem cell_eraseCell_of_ne (m : Memory) {a b : Nat} (h : b ≠ a) : (m.eraseCell a).cell b = m.cell b := by
  induction m with
  | nil => rfl
  | cons c rest ih =>
    obtain ⟨k, w⟩ := c
    by_cases hk : k = a
    · have : k ≠ b := fun e => h (e ▸ hk)
      simpa [Memory.eraseCell, Memory.cell, hk, h.symm] using ih
    · by_cases hb : k = b
      · simp [Memory.eraseCell, Memory.cell, hb, h]
      · simpa [Memory.eraseCell, Memory.cell, hk, hb] using ih

/-- An inserted byte is read back where the key was not listed before. -/
theorem cell_insertCell_self (m : Memory) (a : Nat) (v : Byte) (h : ∀ c ∈ m, c.1 ≠ a) :
    (m.insertCell a v).cell a = v := by
  induction m with
  | nil => simp [Memory.insertCell, Memory.cell]
  | cons c rest ih =>
    obtain ⟨b, w⟩ := c
    have hb : b ≠ a := h (b, w) (by simp)
    by_cases hlt : a < b
    · simp [Memory.insertCell, Memory.cell, hlt]
    · simpa [Memory.insertCell, Memory.cell, hlt, hb] using ih fun c hc => h c (by simp [hc])

theorem cell_insertCell_of_ne (m : Memory) {a b : Nat} (v : Byte) (h : b ≠ a) :
    (m.insertCell a v).cell b = m.cell b := by
  induction m with
  | nil => simp [Memory.insertCell, Memory.cell, h.symm]
  | cons c rest ih =>
    obtain ⟨k, w⟩ := c
    by_cases hlt : a < k
    · simp [Memory.insertCell, Memory.cell, hlt, h.symm]
    · by_cases hk : k = b
      · subst hk
        simp [Memory.insertCell, Memory.cell, hlt]
      · simpa [Memory.insertCell, Memory.cell, hlt, hk] using ih

theorem key_ne_of_mem_eraseCell (m : Memory) (a : Nat) : ∀ c ∈ m.eraseCell a, c.1 ≠ a := by
  intro c hc
  simpa using (List.mem_filter.mp hc).2

/-! ### Reads after writes -/

@[simp] theorem read_empty (a : Byte) : Memory.read [] a = 0#8 := rfl

@[simp] theorem read_write_self (m : Memory) (a v : Byte) : (m.write a v).read a = v := by
  unfold Memory.write Memory.read
  split
  · next h => rw [h]; exact cell_eraseCell_self m _
  · exact cell_insertCell_self _ _ _ (key_ne_of_mem_eraseCell m _)

theorem read_write_of_ne (m : Memory) {a b : Byte} (v : Byte) (h : b ≠ a) : (m.write a v).read b = m.read b := by
  have hn : b.toNat ≠ a.toNat := fun e => h (BitVec.eq_of_toNat_eq e)
  unfold Memory.write Memory.read
  split
  · exact cell_eraseCell_of_ne m hn
  · rw [cell_insertCell_of_ne _ _ hn, cell_eraseCell_of_ne m hn]

/-- A write changes one cell. -/
theorem read_write (m : Memory) (a b v : Byte) : (m.write a v).read b = if b = a then v else m.read b := by
  split
  · next h => rw [h, read_write_self]
  · next h => exact read_write_of_ne m v h

@[simp] theorem length_readRange (m : Memory) (a : Byte) (n : Nat) : (m.readRange a n).length = n := by
  simp [Memory.readRange]

/-- A run of writes leaves every cell it does not reach. -/
theorem read_writeRange_of_ne (vs : List Byte) : ∀ (m : Memory) (a b : Byte),
    (∀ i < vs.length, b ≠ a + BitVec.ofNat 8 i) → (m.writeRange a vs).read b = m.read b := by
  induction vs with
  | nil => intros; rfl
  | cons v vs ih =>
    intro m a b h
    have h0 : b ≠ a := by simpa using h 0 (by simp)
    rw [Memory.writeRange, ih _ _ _ (fun i hi => ?_), read_write_of_ne _ _ h0]
    have := h (i + 1) (by simpa using hi)
    rwa [BitVec.ofNat_add, BitVec.add_comm (BitVec.ofNat 8 i), ← BitVec.add_assoc] at this

/-! ### The canonical form -/

theorem wfFrom_mono {lo lo' : Nat} (h : lo' ≤ lo) : ∀ {m : Memory}, m.wfFrom lo = true → m.wfFrom lo' = true := by
  intro m hm
  cases m with
  | nil => rfl
  | cons c rest =>
    simp only [Memory.wfFrom, Bool.and_eq_true, decide_eq_true_eq] at hm ⊢
    exact ⟨⟨by omega, hm.1.2⟩, hm.2⟩

theorem wfFrom_eraseCell (a : Nat) : ∀ (m : Memory) (lo : Nat), m.wfFrom lo = true → (m.eraseCell a).wfFrom lo = true := by
  intro m
  induction m with
  | nil => intros; rfl
  | cons c rest ih =>
    intro lo hm
    obtain ⟨b, w⟩ := c
    simp only [Memory.wfFrom, Bool.and_eq_true, decide_eq_true_eq] at hm
    by_cases h : b = a
    · have := wfFrom_mono (by omega : lo ≤ b + 1) (ih _ hm.2)
      simpa [Memory.eraseCell, h] using this
    · have := ih _ hm.2
      simp only [Memory.eraseCell] at this ⊢
      simp [h, Memory.wfFrom, hm.1, this]

theorem wfFrom_insertCell {a : Nat} {v : Byte} (ha : a < 256) (hv : v ≠ 0#8) : ∀ (m : Memory) (lo : Nat), lo ≤ a →
    (∀ c ∈ m, c.1 ≠ a) → m.wfFrom lo = true → (m.insertCell a v).wfFrom lo = true := by
  intro m
  induction m with
  | nil => intro lo hlo _ _; simp [Memory.insertCell, Memory.wfFrom, hlo, ha, hv]
  | cons c rest ih =>
    intro lo hlo hne hm
    obtain ⟨b, w⟩ := c
    simp only [Memory.wfFrom, Bool.and_eq_true, decide_eq_true_eq] at hm
    have hb : b ≠ a := hne (b, w) (by simp)
    by_cases hlt : a < b
    · simp [Memory.insertCell, hlt, Memory.wfFrom, hlo, ha, hv, hm.1.2, hm.2]
    · have := ih (b + 1) (by omega) (fun c hc => hne c (by simp [hc])) hm.2
      simp [Memory.insertCell, hlt, Memory.wfFrom, hm.1, this]

/-- The empty memory is canonical. -/
theorem wf_empty : Memory.wf [] = true := rfl

/-- Every write keeps the canonical form. -/
theorem wf_write {m : Memory} (a v : Byte) (h : m.wf = true) : (m.write a v).wf = true := by
  unfold Memory.write
  split
  · exact wfFrom_eraseCell _ _ _ h
  · next hv =>
    exact wfFrom_insertCell a.isLt hv _ _ (Nat.zero_le _) (key_ne_of_mem_eraseCell m _) (wfFrom_eraseCell _ _ _ h)

/-- Every run of writes keeps the canonical form. -/
theorem wf_writeRange (vs : List Byte) : ∀ (m : Memory) (a : Byte), m.wf = true → (m.writeRange a vs).wf = true := by
  induction vs with
  | nil => intro m a h; exact h
  | cons v vs ih => intro m a h; exact ih _ _ (wf_write a v h)

/-- The Loader's memory is canonical. -/
theorem wf_loadImage (image : List Byte) : (loadImage image).wf = true := wf_writeRange _ _ _ wf_empty

/-- The memory of the reset state is canonical. -/
theorem wf_reset : State.reset.mem.wf = true := rfl

end Sys2Proof.Machine
end

