-- ==== Sys2Proof/Laws/State.lean ====
section
/-! SUPPORT. One lemma per field of State per update (Machine/Ops.lean), so that no proof unfolds an update. -/

namespace Sys2Proof.Machine

/-! ### setPc -/

@[simp] theorem setPc_pc (s : State) (v : Byte) : (s.setPc v).pc = v := rfl
@[simp] theorem setPc_acc (s : State) (v : Byte) : (s.setPc v).acc = s.acc := rfl
@[simp] theorem setPc_mem (s : State) (v : Byte) : (s.setPc v).mem = s.mem := rfl
@[simp] theorem setPc_running (s : State) (v : Byte) : (s.setPc v).running = s.running := rfl
@[simp] theorem setPc_cause (s : State) (v : Byte) : (s.setPc v).cause = s.cause := rfl
@[simp] theorem setPc_consoleIn (s : State) (v : Byte) : (s.setPc v).consoleIn = s.consoleIn := rfl
@[simp] theorem setPc_consoleEnded (s : State) (v : Byte) : (s.setPc v).consoleEnded = s.consoleEnded := rfl
@[simp] theorem setPc_consoleTaken (s : State) (v : Byte) : (s.setPc v).consoleTaken = s.consoleTaken := rfl
@[simp] theorem setPc_consoleOut (s : State) (v : Byte) : (s.setPc v).consoleOut = s.consoleOut := rfl
@[simp] theorem setPc_channel (s : State) (v : Byte) : (s.setPc v).channel = s.channel := rfl
@[simp] theorem setPc_sendAnswers (s : State) (v : Byte) : (s.setPc v).sendAnswers = s.sendAnswers := rfl
@[simp] theorem setPc_recvAnswers (s : State) (v : Byte) : (s.setPc v).recvAnswers = s.recvAnswers := rfl
@[simp] theorem setPc_sent (s : State) (v : Byte) : (s.setPc v).sent = s.sent := rfl
@[simp] theorem setPc_received (s : State) (v : Byte) : (s.setPc v).received = s.received := rfl
@[simp] theorem setPc_cfg (s : State) (v : Byte) : (s.setPc v).cfg = s.cfg := rfl

/-! ### setAcc -/

@[simp] theorem setAcc_pc (s : State) (v : Byte) : (s.setAcc v).pc = s.pc := rfl
@[simp] theorem setAcc_acc (s : State) (v : Byte) : (s.setAcc v).acc = v := rfl
@[simp] theorem setAcc_mem (s : State) (v : Byte) : (s.setAcc v).mem = s.mem := rfl
@[simp] theorem setAcc_running (s : State) (v : Byte) : (s.setAcc v).running = s.running := rfl
@[simp] theorem setAcc_cause (s : State) (v : Byte) : (s.setAcc v).cause = s.cause := rfl
@[simp] theorem setAcc_consoleIn (s : State) (v : Byte) : (s.setAcc v).consoleIn = s.consoleIn := rfl
@[simp] theorem setAcc_consoleEnded (s : State) (v : Byte) : (s.setAcc v).consoleEnded = s.consoleEnded := rfl
@[simp] theorem setAcc_consoleTaken (s : State) (v : Byte) : (s.setAcc v).consoleTaken = s.consoleTaken := rfl
@[simp] theorem setAcc_consoleOut (s : State) (v : Byte) : (s.setAcc v).consoleOut = s.consoleOut := rfl
@[simp] theorem setAcc_channel (s : State) (v : Byte) : (s.setAcc v).channel = s.channel := rfl
@[simp] theorem setAcc_sendAnswers (s : State) (v : Byte) : (s.setAcc v).sendAnswers = s.sendAnswers := rfl
@[simp] theorem setAcc_recvAnswers (s : State) (v : Byte) : (s.setAcc v).recvAnswers = s.recvAnswers := rfl
@[simp] theorem setAcc_sent (s : State) (v : Byte) : (s.setAcc v).sent = s.sent := rfl
@[simp] theorem setAcc_received (s : State) (v : Byte) : (s.setAcc v).received = s.received := rfl
@[simp] theorem setAcc_cfg (s : State) (v : Byte) : (s.setAcc v).cfg = s.cfg := rfl

/-! ### setMem -/

@[simp] theorem setMem_pc (s : State) (m : Memory) : (s.setMem m).pc = s.pc := rfl
@[simp] theorem setMem_acc (s : State) (m : Memory) : (s.setMem m).acc = s.acc := rfl
@[simp] theorem setMem_mem (s : State) (m : Memory) : (s.setMem m).mem = m := rfl
@[simp] theorem setMem_running (s : State) (m : Memory) : (s.setMem m).running = s.running := rfl
@[simp] theorem setMem_cause (s : State) (m : Memory) : (s.setMem m).cause = s.cause := rfl
@[simp] theorem setMem_consoleIn (s : State) (m : Memory) : (s.setMem m).consoleIn = s.consoleIn := rfl
@[simp] theorem setMem_consoleEnded (s : State) (m : Memory) : (s.setMem m).consoleEnded = s.consoleEnded := rfl
@[simp] theorem setMem_consoleTaken (s : State) (m : Memory) : (s.setMem m).consoleTaken = s.consoleTaken := rfl
@[simp] theorem setMem_consoleOut (s : State) (m : Memory) : (s.setMem m).consoleOut = s.consoleOut := rfl
@[simp] theorem setMem_channel (s : State) (m : Memory) : (s.setMem m).channel = s.channel := rfl
@[simp] theorem setMem_sendAnswers (s : State) (m : Memory) : (s.setMem m).sendAnswers = s.sendAnswers := rfl
@[simp] theorem setMem_recvAnswers (s : State) (m : Memory) : (s.setMem m).recvAnswers = s.recvAnswers := rfl
@[simp] theorem setMem_sent (s : State) (m : Memory) : (s.setMem m).sent = s.sent := rfl
@[simp] theorem setMem_received (s : State) (m : Memory) : (s.setMem m).received = s.received := rfl
@[simp] theorem setMem_cfg (s : State) (m : Memory) : (s.setMem m).cfg = s.cfg := rfl

/-! ### writeCell -/

@[simp] theorem writeCell_pc (s : State) (a v : Byte) : (s.writeCell a v).pc = s.pc := rfl
@[simp] theorem writeCell_acc (s : State) (a v : Byte) : (s.writeCell a v).acc = s.acc := rfl
@[simp] theorem writeCell_mem (s : State) (a v : Byte) : (s.writeCell a v).mem = s.mem.write a v := rfl
@[simp] theorem writeCell_running (s : State) (a v : Byte) : (s.writeCell a v).running = s.running := rfl
@[simp] theorem writeCell_cause (s : State) (a v : Byte) : (s.writeCell a v).cause = s.cause := rfl
@[simp] theorem writeCell_consoleIn (s : State) (a v : Byte) : (s.writeCell a v).consoleIn = s.consoleIn := rfl
@[simp] theorem writeCell_consoleEnded (s : State) (a v : Byte) : (s.writeCell a v).consoleEnded = s.consoleEnded := rfl
@[simp] theorem writeCell_consoleTaken (s : State) (a v : Byte) : (s.writeCell a v).consoleTaken = s.consoleTaken := rfl
@[simp] theorem writeCell_consoleOut (s : State) (a v : Byte) : (s.writeCell a v).consoleOut = s.consoleOut := rfl
@[simp] theorem writeCell_channel (s : State) (a v : Byte) : (s.writeCell a v).channel = s.channel := rfl
@[simp] theorem writeCell_sendAnswers (s : State) (a v : Byte) : (s.writeCell a v).sendAnswers = s.sendAnswers := rfl
@[simp] theorem writeCell_recvAnswers (s : State) (a v : Byte) : (s.writeCell a v).recvAnswers = s.recvAnswers := rfl
@[simp] theorem writeCell_sent (s : State) (a v : Byte) : (s.writeCell a v).sent = s.sent := rfl
@[simp] theorem writeCell_received (s : State) (a v : Byte) : (s.writeCell a v).received = s.received := rfl
@[simp] theorem writeCell_cfg (s : State) (a v : Byte) : (s.writeCell a v).cfg = s.cfg := rfl

/-! ### fetched -/

@[simp] theorem fetched_pc (s : State) : s.fetched.pc = s.pc + 1#8 := rfl
@[simp] theorem fetched_acc (s : State) : s.fetched.acc = s.acc := rfl
@[simp] theorem fetched_mem (s : State) : s.fetched.mem = s.mem := rfl
@[simp] theorem fetched_running (s : State) : s.fetched.running = s.running := rfl
@[simp] theorem fetched_cause (s : State) : s.fetched.cause = s.cause := rfl
@[simp] theorem fetched_consoleIn (s : State) : s.fetched.consoleIn = s.consoleIn := rfl
@[simp] theorem fetched_consoleEnded (s : State) : s.fetched.consoleEnded = s.consoleEnded := rfl
@[simp] theorem fetched_consoleTaken (s : State) : s.fetched.consoleTaken = s.consoleTaken := rfl
@[simp] theorem fetched_consoleOut (s : State) : s.fetched.consoleOut = s.consoleOut := rfl
@[simp] theorem fetched_channel (s : State) : s.fetched.channel = s.channel := rfl
@[simp] theorem fetched_sendAnswers (s : State) : s.fetched.sendAnswers = s.sendAnswers := rfl
@[simp] theorem fetched_recvAnswers (s : State) : s.fetched.recvAnswers = s.recvAnswers := rfl
@[simp] theorem fetched_sent (s : State) : s.fetched.sent = s.sent := rfl
@[simp] theorem fetched_received (s : State) : s.fetched.received = s.received := rfl
@[simp] theorem fetched_cfg (s : State) : s.fetched.cfg = s.cfg := rfl

/-! ### raiseStop -/

@[simp] theorem raiseStop_pc (s : State) (c : Cause) : (s.raiseStop c).pc = s.pc := rfl
@[simp] theorem raiseStop_acc (s : State) (c : Cause) : (s.raiseStop c).acc = s.acc := rfl
@[simp] theorem raiseStop_mem (s : State) (c : Cause) : (s.raiseStop c).mem = s.mem := rfl
@[simp] theorem raiseStop_running (s : State) (c : Cause) : (s.raiseStop c).running = false := rfl
@[simp] theorem raiseStop_cause (s : State) (c : Cause) : (s.raiseStop c).cause = c := rfl
@[simp] theorem raiseStop_consoleIn (s : State) (c : Cause) : (s.raiseStop c).consoleIn = s.consoleIn := rfl
@[simp] theorem raiseStop_consoleEnded (s : State) (c : Cause) : (s.raiseStop c).consoleEnded = s.consoleEnded := rfl
@[simp] theorem raiseStop_consoleTaken (s : State) (c : Cause) : (s.raiseStop c).consoleTaken = s.consoleTaken := rfl
@[simp] theorem raiseStop_consoleOut (s : State) (c : Cause) : (s.raiseStop c).consoleOut = s.consoleOut := rfl
@[simp] theorem raiseStop_channel (s : State) (c : Cause) : (s.raiseStop c).channel = s.channel := rfl
@[simp] theorem raiseStop_sendAnswers (s : State) (c : Cause) : (s.raiseStop c).sendAnswers = s.sendAnswers := rfl
@[simp] theorem raiseStop_recvAnswers (s : State) (c : Cause) : (s.raiseStop c).recvAnswers = s.recvAnswers := rfl
@[simp] theorem raiseStop_sent (s : State) (c : Cause) : (s.raiseStop c).sent = s.sent := rfl
@[simp] theorem raiseStop_received (s : State) (c : Cause) : (s.raiseStop c).received = s.received := rfl
@[simp] theorem raiseStop_cfg (s : State) (c : Cause) : (s.raiseStop c).cfg = s.cfg := rfl

/-! ### notCompleted -/

@[simp] theorem notCompleted_pc (s : State) : s.notCompleted.pc = s.pc - 1#8 := rfl
@[simp] theorem notCompleted_acc (s : State) : s.notCompleted.acc = s.acc := rfl
@[simp] theorem notCompleted_mem (s : State) : s.notCompleted.mem = s.mem := rfl
@[simp] theorem notCompleted_running (s : State) : s.notCompleted.running = s.running := rfl
@[simp] theorem notCompleted_cause (s : State) : s.notCompleted.cause = s.cause := rfl
@[simp] theorem notCompleted_consoleIn (s : State) : s.notCompleted.consoleIn = s.consoleIn := rfl
@[simp] theorem notCompleted_consoleEnded (s : State) : s.notCompleted.consoleEnded = s.consoleEnded := rfl
@[simp] theorem notCompleted_consoleTaken (s : State) : s.notCompleted.consoleTaken = s.consoleTaken := rfl
@[simp] theorem notCompleted_consoleOut (s : State) : s.notCompleted.consoleOut = s.consoleOut := rfl
@[simp] theorem notCompleted_channel (s : State) : s.notCompleted.channel = s.channel := rfl
@[simp] theorem notCompleted_sendAnswers (s : State) : s.notCompleted.sendAnswers = s.sendAnswers := rfl
@[simp] theorem notCompleted_recvAnswers (s : State) : s.notCompleted.recvAnswers = s.recvAnswers := rfl
@[simp] theorem notCompleted_sent (s : State) : s.notCompleted.sent = s.sent := rfl
@[simp] theorem notCompleted_received (s : State) : s.notCompleted.received = s.received := rfl
@[simp] theorem notCompleted_cfg (s : State) : s.notCompleted.cfg = s.cfg := rfl

/-! ### stdoutWrite -/

@[simp] theorem stdoutWrite_pc (s : State) (v : Byte) : (s.stdoutWrite v).pc = s.pc := rfl
@[simp] theorem stdoutWrite_acc (s : State) (v : Byte) : (s.stdoutWrite v).acc = s.acc := rfl
@[simp] theorem stdoutWrite_mem (s : State) (v : Byte) : (s.stdoutWrite v).mem = s.mem := rfl
@[simp] theorem stdoutWrite_running (s : State) (v : Byte) : (s.stdoutWrite v).running = s.running := rfl
@[simp] theorem stdoutWrite_cause (s : State) (v : Byte) : (s.stdoutWrite v).cause = s.cause := rfl
@[simp] theorem stdoutWrite_consoleIn (s : State) (v : Byte) : (s.stdoutWrite v).consoleIn = s.consoleIn := rfl
@[simp] theorem stdoutWrite_consoleEnded (s : State) (v : Byte) : (s.stdoutWrite v).consoleEnded = s.consoleEnded := rfl
@[simp] theorem stdoutWrite_consoleTaken (s : State) (v : Byte) : (s.stdoutWrite v).consoleTaken = s.consoleTaken := rfl
@[simp] theorem stdoutWrite_consoleOut (s : State) (v : Byte) : (s.stdoutWrite v).consoleOut = s.consoleOut ++ [v] := rfl
@[simp] theorem stdoutWrite_channel (s : State) (v : Byte) : (s.stdoutWrite v).channel = s.channel := rfl
@[simp] theorem stdoutWrite_sendAnswers (s : State) (v : Byte) : (s.stdoutWrite v).sendAnswers = s.sendAnswers := rfl
@[simp] theorem stdoutWrite_recvAnswers (s : State) (v : Byte) : (s.stdoutWrite v).recvAnswers = s.recvAnswers := rfl
@[simp] theorem stdoutWrite_sent (s : State) (v : Byte) : (s.stdoutWrite v).sent = s.sent := rfl
@[simp] theorem stdoutWrite_received (s : State) (v : Byte) : (s.stdoutWrite v).received = s.received := rfl
@[simp] theorem stdoutWrite_cfg (s : State) (v : Byte) : (s.stdoutWrite v).cfg = s.cfg := rfl

/-! ### closeChannel and endOfPass: the channel alone can change -/

@[simp] theorem closeChannel_pc (s : State) : s.closeChannel.pc = s.pc := by unfold State.closeChannel; split <;> rfl
@[simp] theorem closeChannel_acc (s : State) : s.closeChannel.acc = s.acc := by unfold State.closeChannel; split <;> rfl
@[simp] theorem closeChannel_mem (s : State) : s.closeChannel.mem = s.mem := by unfold State.closeChannel; split <;> rfl
@[simp] theorem closeChannel_running (s : State) : s.closeChannel.running = s.running := by unfold State.closeChannel; split <;> rfl
@[simp] theorem closeChannel_cause (s : State) : s.closeChannel.cause = s.cause := by unfold State.closeChannel; split <;> rfl
@[simp] theorem closeChannel_consoleIn (s : State) : s.closeChannel.consoleIn = s.consoleIn := by unfold State.closeChannel; split <;> rfl
@[simp] theorem closeChannel_consoleEnded (s : State) : s.closeChannel.consoleEnded = s.consoleEnded := by unfold State.closeChannel; split <;> rfl
@[simp] theorem closeChannel_consoleTaken (s : State) : s.closeChannel.consoleTaken = s.consoleTaken := by unfold State.closeChannel; split <;> rfl
@[simp] theorem closeChannel_consoleOut (s : State) : s.closeChannel.consoleOut = s.consoleOut := by unfold State.closeChannel; split <;> rfl
@[simp] theorem closeChannel_sendAnswers (s : State) : s.closeChannel.sendAnswers = s.sendAnswers := by unfold State.closeChannel; split <;> rfl
@[simp] theorem closeChannel_recvAnswers (s : State) : s.closeChannel.recvAnswers = s.recvAnswers := by unfold State.closeChannel; split <;> rfl
@[simp] theorem closeChannel_sent (s : State) : s.closeChannel.sent = s.sent := by unfold State.closeChannel; split <;> rfl
@[simp] theorem closeChannel_received (s : State) : s.closeChannel.received = s.received := by unfold State.closeChannel; split <;> rfl
@[simp] theorem closeChannel_cfg (s : State) : s.closeChannel.cfg = s.cfg := by unfold State.closeChannel; split <;> rfl

@[simp] theorem closeChannel_channel (s : State) :
    s.closeChannel.channel = if s.channel = .absent then .absent else .closed := by
  unfold State.closeChannel; split <;> simp [*]

@[simp] theorem endOfPass_pc (s : State) : s.endOfPass.pc = s.pc := by unfold State.endOfPass; split <;> simp
@[simp] theorem endOfPass_acc (s : State) : s.endOfPass.acc = s.acc := by unfold State.endOfPass; split <;> simp
@[simp] theorem endOfPass_mem (s : State) : s.endOfPass.mem = s.mem := by unfold State.endOfPass; split <;> simp
@[simp] theorem endOfPass_running (s : State) : s.endOfPass.running = s.running := by unfold State.endOfPass; split <;> simp
@[simp] theorem endOfPass_cause (s : State) : s.endOfPass.cause = s.cause := by unfold State.endOfPass; split <;> simp
@[simp] theorem endOfPass_consoleIn (s : State) : s.endOfPass.consoleIn = s.consoleIn := by unfold State.endOfPass; split <;> simp
@[simp] theorem endOfPass_consoleEnded (s : State) : s.endOfPass.consoleEnded = s.consoleEnded := by unfold State.endOfPass; split <;> simp
@[simp] theorem endOfPass_consoleTaken (s : State) : s.endOfPass.consoleTaken = s.consoleTaken := by unfold State.endOfPass; split <;> simp
@[simp] theorem endOfPass_consoleOut (s : State) : s.endOfPass.consoleOut = s.consoleOut := by unfold State.endOfPass; split <;> simp
@[simp] theorem endOfPass_sendAnswers (s : State) : s.endOfPass.sendAnswers = s.sendAnswers := by unfold State.endOfPass; split <;> simp
@[simp] theorem endOfPass_recvAnswers (s : State) : s.endOfPass.recvAnswers = s.recvAnswers := by unfold State.endOfPass; split <;> simp
@[simp] theorem endOfPass_sent (s : State) : s.endOfPass.sent = s.sent := by unfold State.endOfPass; split <;> simp
@[simp] theorem endOfPass_received (s : State) : s.endOfPass.received = s.received := by unfold State.endOfPass; split <;> simp
@[simp] theorem endOfPass_cfg (s : State) : s.endOfPass.cfg = s.cfg := by unfold State.endOfPass; split <;> simp

/-- Closing the channel changes the channel alone. -/
theorem closeChannel_eq (s : State) :
    s.closeChannel = { s with channel := if s.channel = .absent then .absent else .closed } := by
  unfold State.closeChannel
  split
  · next h => cases s; simp_all
  all_goals next h => simp [h]

theorem endOfPass_of_running {s : State} (h : s.running = true) : s.endOfPass = s := by simp [State.endOfPass, h]

theorem endOfPass_of_stopped {s : State} (h : s.running = false) : s.endOfPass = s.closeChannel := by
  simp [State.endOfPass, h]

/-- A step that does not complete leaves the state before its fetch. -/
@[simp] theorem fetched_notCompleted (s : State) : s.fetched.notCompleted = s := by
  cases s; simp [State.fetched, State.notCompleted, State.setPc]

end Sys2Proof.Machine
end

