-- ==== Sys2Proof/Laws/Operations.lean ====
section
/-! SUPPORT. What each shared operation can do, said once: cited by proofs instead of unfolding it. -/

namespace Sys2Proof.Machine

/-! ### The environment's transactions -/

/-- `StdinRead()` yields the next token, or Bad at the end of the stream, or nothing yet. -/
theorem stdinRead_cases (s : State) :
    (∃ n rest, s.consoleIn = .int n :: rest ∧
      s.stdinRead = (.int n, { s with consoleIn := rest, consoleTaken := s.consoleTaken + 1 })) ∨
    (∃ rest, s.consoleIn = .bad :: rest ∧
      s.stdinRead = (.bad, { s with consoleIn := rest, consoleTaken := s.consoleTaken + 1 })) ∨
    (s.consoleIn = [] ∧ s.consoleEnded = true ∧ s.stdinRead = (.bad, s)) ∨
    (s.consoleIn = [] ∧ s.consoleEnded = false ∧ s.stdinRead = (.noneYet, s)) := by
  unfold State.stdinRead
  split <;> cases h : s.consoleEnded <;> simp_all

/-- `NetSend(b)` succeeds, fails or has no answer yet. -/
theorem netSend_cases (s : State) (b : Byte) :
    (∃ rest, s.sendAnswers = .ok :: rest ∧
      s.netSend b = (.ok, { s with sendAnswers := rest, sent := s.sent ++ [b] })) ∨
    (∃ rest, s.sendAnswers = .fail :: rest ∧ s.netSend b = (.fail, { s with sendAnswers := rest })) ∨
    (s.sendAnswers = [] ∧ s.netSend b = (.noneYet, s)) := by
  unfold State.netSend
  split <;> simp_all

/-- `NetRecv()` yields the next byte, fails or has no answer yet. -/
theorem netRecv_cases (s : State) :
    (∃ b rest, s.recvAnswers = .byte b :: rest ∧
      s.netRecv = (.byte b, { s with recvAnswers := rest, received := s.received + 1 })) ∨
    (∃ rest, s.recvAnswers = .fail :: rest ∧ s.netRecv = (.fail, { s with recvAnswers := rest })) ∨
    (s.recvAnswers = [] ∧ s.netRecv = (.noneYet, s)) := by
  unfold State.netRecv
  split <;> simp_all

/-! ### The ALU -/

/-- An ALU operation writes ACC and nothing else. -/
theorem aluInto_eq_setAcc (s : State) (op : AluOp) (opd : Nibble) :
    s.aluInto op opd = s.setAcc ((alu op s.acc (s.operandCell opd)).getD s.acc) := by
  unfold State.aluInto
  split <;> simp_all [State.setAcc]

/-- Division by zero alone has no result. -/
theorem alu_eq_none_iff (op : AluOp) (a b : Byte) : alu op a b = none ↔ op = .div ∧ b = 0#8 := by
  cases op <;> simp [alu]

/-! ### The search -/

/-- The search from `n` on finds the `j`-th candidate, the first one that qualifies. -/
theorem searchFrom_eq_some_iff (p : Nonce → Bool) : ∀ (k : Nat) (n r : Nonce),
    searchFrom p k n = some r ↔
      ∃ j < k, r = n + BitVec.ofNat 32 j ∧ p r = true ∧ ∀ i < j, p (n + BitVec.ofNat 32 i) = false := by
  intro k
  induction k with
  | zero => simp [searchFrom]
  | succ k ih =>
    intro n r
    have shift : ∀ i : Nat, n + 1#32 + BitVec.ofNat 32 i = n + BitVec.ofNat 32 (i + 1) := by
      intro i
      rw [BitVec.ofNat_add, BitVec.add_comm (BitVec.ofNat 32 i), ← BitVec.add_assoc]
    by_cases hp : p n = true
    · simp only [searchFrom, hp, if_true, Option.some.injEq]
      constructor
      · rintro rfl
        exact ⟨0, by omega, by simp, hp, by simp⟩
      · rintro ⟨j, _, rfl, _, hmin⟩
        cases j with
        | zero => simp
        | succ j => have := hmin 0 (by omega); simp [hp] at this
    · simp only [searchFrom, hp, Bool.false_eq_true, if_false, ih, shift]
      constructor
      · rintro ⟨j, hj, hr, hpr, hmin⟩
        refine ⟨j + 1, by omega, hr, hpr, fun i hi => ?_⟩
        cases i with
        | zero => simpa using hp
        | succ i => exact hmin i (by omega)
      · rintro ⟨j, hj, hr, hpr, hmin⟩
        cases j with
        | zero => simp only [BitVec.add_zero] at hr; exact absurd (hr ▸ hpr) hp
        | succ j => exact ⟨j, by omega, hr, hpr, fun i hi => hmin (i + 1) (by omega)⟩

/-- The search from `n` on finds nothing when none of its candidates qualifies. -/
theorem searchFrom_eq_none_iff (p : Nonce → Bool) : ∀ (k : Nat) (n : Nonce),
    searchFrom p k n = none ↔ ∀ i < k, p (n + BitVec.ofNat 32 i) = false := by
  intro k
  induction k with
  | zero => simp [searchFrom]
  | succ k ih =>
    intro n
    have shift : ∀ i : Nat, n + 1#32 + BitVec.ofNat 32 i = n + BitVec.ofNat 32 (i + 1) := by
      intro i
      rw [BitVec.ofNat_add, BitVec.add_comm (BitVec.ofNat 32 i), ← BitVec.add_assoc]
    by_cases hp : p n = true
    · simp only [searchFrom, hp, if_true, reduceCtorEq, false_iff]
      intro h
      have := h 0 (by omega)
      simp [hp] at this
    · simp only [searchFrom, hp, Bool.false_eq_true, if_false, ih, shift]
      constructor
      · intro h i hi
        cases i with
        | zero => simpa using hp
        | succ i => exact h i (by omega)
      · intro h i hi
        exact h (i + 1) (by omega)

end Sys2Proof.Machine
end

