-- ==== Sys2Proof/Laws/PerInstr.lean ====
section
/-! SUPPORT. Statements about every instruction as it is encoded, one lemma per constructor. -/

/-- The first byte of an encoding splits into the instruction's own fields, and the encoding has the length its opcode
field tells (30_encoding.md R46, R49). -/
def Sys2Proof.Laws.EncodeSplit.Statement (i : Sys2Proof.Instr) : Prop :=
  Sys2Proof.opcodeField i.firstByte = i.opcode ∧ Sys2Proof.operandField i.firstByte = i.operand ∧
    (Sys2Proof.encode i).length = Sys2Proof.lengthOfOpcode i.opcode

namespace Sys2Proof.Laws.EncodeSplit

theorem add (n : Nibble) : Statement (.add n) := ⟨opcodeField_packFields _ _, operandField_packFields _ _, rfl⟩

theorem sub (n : Nibble) : Statement (.sub n) := ⟨opcodeField_packFields _ _, operandField_packFields _ _, rfl⟩

theorem mul (n : Nibble) : Statement (.mul n) := ⟨opcodeField_packFields _ _, operandField_packFields _ _, rfl⟩

theorem div (n : Nibble) : Statement (.div n) := ⟨opcodeField_packFields _ _, operandField_packFields _ _, rfl⟩

theorem and (n : Nibble) : Statement (.and n) := ⟨opcodeField_packFields _ _, operandField_packFields _ _, rfl⟩

theorem or (n : Nibble) : Statement (.or n) := ⟨opcodeField_packFields _ _, operandField_packFields _ _, rfl⟩

theorem xor (n : Nibble) : Statement (.xor n) := ⟨opcodeField_packFields _ _, operandField_packFields _ _, rfl⟩

theorem load (n : Nibble) : Statement (.load n) := ⟨opcodeField_packFields _ _, operandField_packFields _ _, rfl⟩

theorem store (n : Nibble) : Statement (.store n) := ⟨opcodeField_packFields _ _, operandField_packFields _ _, rfl⟩

theorem jump (n : Nibble) : Statement (.jump n) := ⟨opcodeField_packFields _ _, operandField_packFields _ _, rfl⟩

theorem jz (n : Nibble) (off : Byte) : Statement (.jz n off) := ⟨opcodeField_packFields _ _, operandField_packFields _ _, rfl⟩

theorem jnz (n : Nibble) (off : Byte) : Statement (.jnz n off) := ⟨opcodeField_packFields _ _, operandField_packFields _ _, rfl⟩

theorem input (n : Nibble) : Statement (.input n) := ⟨opcodeField_packFields _ _, operandField_packFields _ _, rfl⟩

theorem output (n : Nibble) : Statement (.output n) := ⟨opcodeField_packFields _ _, operandField_packFields _ _, rfl⟩

theorem halt (n : Nibble) : Statement (.halt n) := ⟨opcodeField_packFields _ _, operandField_packFields _ _, rfl⟩

theorem netSend (n : Nibble) : Statement (.netSend n) := ⟨opcodeField_packFields _ _, operandField_packFields _ _, rfl⟩

theorem netRecv (n : Nibble) : Statement (.netRecv n) := ⟨opcodeField_packFields _ _, operandField_packFields _ _, rfl⟩

theorem pow (n : Nibble) : Statement (.pow n) := ⟨opcodeField_packFields _ _, operandField_packFields _ _, rfl⟩

theorem unknown (n : Nibble) : Statement (.unknown n) := ⟨opcodeField_packFields _ _, operandField_packFields _ _, rfl⟩

end Sys2Proof.Laws.EncodeSplit
end

