-- ==== Sys2Proof/Laws/Step.lean ====
section
/-! SUPPORT. What a handler and a step can do: one lemma per handler with more than one outcome, and the step's own. -/

namespace Sys2Proof.Machine

/-- Every way IN ends. -/
theorem execIn_cases (n : Nibble) (s : State) :
    (∃ k rest, s.consoleIn = .int k :: rest ∧ execIn n s =
      .next ({ s with consoleIn := rest, consoleTaken := s.consoleTaken + 1 }.setAcc (byteOfInt k))) ∨
    (∃ rest, s.consoleIn = .bad :: rest ∧ execIn n s =
      .next ({ s with consoleIn := rest, consoleTaken := s.consoleTaken + 1 }.raiseStop .inputError)) ∨
    (s.consoleIn = [] ∧ s.consoleEnded = true ∧ execIn n s = .next (s.raiseStop .inputError)) ∨
    (s.consoleIn = [] ∧ s.consoleEnded = false ∧ execIn n s = .next s.notCompleted) := by
  rcases stdinRead_cases s with ⟨k, rest, h, e⟩ | ⟨rest, h, e⟩ | ⟨h, h', e⟩ | ⟨h, h', e⟩
  · exact .inl ⟨k, rest, h, by simp [execIn, e]⟩
  · exact .inr (.inl ⟨rest, h, by simp [execIn, e]⟩)
  · exact .inr (.inr (.inl ⟨h, h', by simp [execIn, e]⟩))
  · exact .inr (.inr (.inr ⟨h, h', by simp [execIn, e]⟩))

/-- Every way NET_SEND ends. -/
theorem execNetSend_cases (n : Nibble) (s : State) :
    (s.channel ≠ .isOpen ∧ execNetSend n s = .fault .channelNotOpen) ∨
    (s.channel = .isOpen ∧ ∃ rest, s.sendAnswers = .ok :: rest ∧ execNetSend n s =
      .next { s with sendAnswers := rest, sent := s.sent ++ [s.operandCell n] }) ∨
    (s.channel = .isOpen ∧ ∃ rest, s.sendAnswers = .fail :: rest ∧ execNetSend n s =
      .next ({ s with sendAnswers := rest }.raiseStop .netError)) ∨
    (s.channel = .isOpen ∧ s.sendAnswers = [] ∧ execNetSend n s = .next s.notCompleted) := by
  unfold execNetSend
  split
  · next h => simp [h]
  · next h => simp [h]
  · next h =>
    rcases netSend_cases s (s.operandCell n) with ⟨rest, h', e⟩ | ⟨rest, h', e⟩ | ⟨h', e⟩ <;> simp [e, h, h']

/-- Every way NET_RECV ends. -/
theorem execNetRecv_cases (n : Nibble) (s : State) :
    (s.channel ≠ .isOpen ∧ execNetRecv n s = .fault .channelNotOpen) ∨
    (s.channel = .isOpen ∧ ∃ b rest, s.recvAnswers = .byte b :: rest ∧ execNetRecv n s =
      .next ({ s with recvAnswers := rest, received := s.received + 1 }.writeCell (cellAddress n) b)) ∨
    (s.channel = .isOpen ∧ ∃ rest, s.recvAnswers = .fail :: rest ∧ execNetRecv n s =
      .next ({ s with recvAnswers := rest }.raiseStop .netError)) ∨
    (s.channel = .isOpen ∧ s.recvAnswers = [] ∧ execNetRecv n s = .next s.notCompleted) := by
  unfold execNetRecv
  split
  · next h => simp [h]
  · next h => simp [h]
  · next h =>
    rcases netRecv_cases s with ⟨b, rest, h', e⟩ | ⟨rest, h', e⟩ | ⟨h', e⟩ <;> simp [e, h, h']

/-- Every way POW ends, whatever the digest. -/
theorem powWith_cases (digest : List Byte → Digest) (n : Nibble) (s : State) :
    (s.cfg.difficultyInRange = false ∧ powWith digest n s = .refused .difficultyOutOfRange) ∨
    (s.cfg.difficultyInRange = true ∧ ∃ r, s.powSearch digest = some r ∧ powWith digest n s =
      .next (s.setMem (s.mem.writeRange (cellAddress n) (nonceBytes s.cfg.nonceOrder r)))) ∨
    (s.cfg.difficultyInRange = true ∧ s.powSearch digest = none ∧ powWith digest n s = .next s.notCompleted) := by
  unfold powWith
  cases hd : s.cfg.difficultyInRange
  · simp
  · cases hs : s.powSearch digest <;> simp

/-- Everything a handler that answers a next state can have done, guards included. -/
inductive HandlerEffect (s : State) : Instr → State → Prop
  /-- ADD to XOR and LOAD: at most ACC is written. -/
  | accOnly (i : Instr) (v : Byte) : i.opcode.toNat ≤ 7 → HandlerEffect s i (s.setAcc v)
  | store (n : Nibble) : HandlerEffect s (.store n) (s.writeCell (cellAddress n) s.acc)
  | jump (n : Nibble) : HandlerEffect s (.jump n) (s.setPc (immediate n))
  | jz (n : Nibble) (off : Byte) : HandlerEffect s (.jz n off) (s.branch s.accIsZero off)
  | jnz (n : Nibble) (off : Byte) : HandlerEffect s (.jnz n off) (s.branch (!s.accIsZero) off)
  | inputInt (n : Nibble) (k : Int) (rest : List ConsoleToken) : s.consoleIn = .int k :: rest →
      HandlerEffect s (.input n)
        ({ s with consoleIn := rest, consoleTaken := s.consoleTaken + 1 }.setAcc (byteOfInt k))
  | inputBad (n : Nibble) (rest : List ConsoleToken) : s.consoleIn = .bad :: rest →
      HandlerEffect s (.input n)
        ({ s with consoleIn := rest, consoleTaken := s.consoleTaken + 1 }.raiseStop .inputError)
  | inputEnded (n : Nibble) : s.consoleIn = [] → s.consoleEnded = true →
      HandlerEffect s (.input n) (s.raiseStop .inputError)
  | inputWait (n : Nibble) : s.consoleIn = [] → s.consoleEnded = false → HandlerEffect s (.input n) s.notCompleted
  | output (n : Nibble) : HandlerEffect s (.output n) (s.stdoutWrite s.acc)
  | halt (n : Nibble) : HandlerEffect s (.halt n) (s.raiseStop .halt)
  | unknown (n : Nibble) : HandlerEffect s (.unknown n) (s.raiseStop .unknownInstruction)
  | sendOk (n : Nibble) (rest : List SendAnswer) : s.channel = .isOpen → s.sendAnswers = .ok :: rest →
      HandlerEffect s (.netSend n) { s with sendAnswers := rest, sent := s.sent ++ [s.operandCell n] }
  | sendFail (n : Nibble) (rest : List SendAnswer) : s.channel = .isOpen → s.sendAnswers = .fail :: rest →
      HandlerEffect s (.netSend n) ({ s with sendAnswers := rest }.raiseStop .netError)
  | sendWait (n : Nibble) : s.channel = .isOpen → s.sendAnswers = [] → HandlerEffect s (.netSend n) s.notCompleted
  | recvByte (n : Nibble) (b : Byte) (rest : List RecvAnswer) : s.channel = .isOpen → s.recvAnswers = .byte b :: rest →
      HandlerEffect s (.netRecv n)
        ({ s with recvAnswers := rest, received := s.received + 1 }.writeCell (cellAddress n) b)
  | recvFail (n : Nibble) (rest : List RecvAnswer) : s.channel = .isOpen → s.recvAnswers = .fail :: rest →
      HandlerEffect s (.netRecv n) ({ s with recvAnswers := rest }.raiseStop .netError)
  | recvWait (n : Nibble) : s.channel = .isOpen → s.recvAnswers = [] → HandlerEffect s (.netRecv n) s.notCompleted
  | powFound (n : Nibble) (r : Nonce) : s.cfg.difficultyInRange = true → s.powSearch Config.digest = some r →
      HandlerEffect s (.pow n) (s.setMem (s.mem.writeRange (cellAddress n) (nonceBytes s.cfg.nonceOrder r)))
  | powWait (n : Nibble) : s.cfg.difficultyInRange = true → s.powSearch Config.digest = none →
      HandlerEffect s (.pow n) s.notCompleted

/-- An ALU instruction's effect. -/
theorem aluInto_effect (s : State) (i : Instr) (op : AluOp) (n : Nibble) (hi : i.opcode.toNat ≤ 7) :
    HandlerEffect s i (s.aluInto op n) := by
  rw [aluInto_eq_setAcc]
  exact .accOnly i _ hi

/-- What `exec` answered, it did by one of the effects. -/
theorem exec_effect {i : Instr} {s t : State} (h : exec i s = .next t) : HandlerEffect s i t := by
  cases i with
  | add n => cases h; exact aluInto_effect s _ .add n (by simp [Instr.opcode])
  | sub n => cases h; exact aluInto_effect s _ .sub n (by simp [Instr.opcode])
  | mul n => cases h; exact aluInto_effect s _ .mul n (by simp [Instr.opcode])
  | div n => cases h; exact aluInto_effect s _ .div n (by simp [Instr.opcode])
  | and n => cases h; exact aluInto_effect s _ .and n (by simp [Instr.opcode])
  | or n => cases h; exact aluInto_effect s _ .or n (by simp [Instr.opcode])
  | xor n => cases h; exact aluInto_effect s _ .xor n (by simp [Instr.opcode])
  | load n => cases h; exact aluInto_effect s _ .pass n (by simp [Instr.opcode])
  | store n => cases h; exact .store n
  | jump n => cases h; exact .jump n
  | jz n off => cases h; exact .jz n off
  | jnz n off => cases h; exact .jnz n off
  | output n => cases h; exact .output n
  | halt n => cases h; exact .halt n
  | unknown n => cases h; exact .unknown n
  | input n =>
    change execIn n s = .next t at h
    rcases execIn_cases n s with ⟨k, rest, hk, e⟩ | ⟨rest, hk, e⟩ | ⟨hk, hend, e⟩ | ⟨hk, hend, e⟩ <;>
      rw [e] at h <;> cases h
    · exact .inputInt n k rest hk
    · exact .inputBad n rest hk
    · exact .inputEnded n hk hend
    · exact .inputWait n hk hend
  | netSend n =>
    change execNetSend n s = .next t at h
    rcases execNetSend_cases n s with ⟨hc, e⟩ | ⟨hc, rest, ha, e⟩ | ⟨hc, rest, ha, e⟩ | ⟨hc, ha, e⟩ <;>
      rw [e] at h <;> cases h
    · exact .sendOk n rest hc ha
    · exact .sendFail n rest hc ha
    · exact .sendWait n hc ha
  | netRecv n =>
    change execNetRecv n s = .next t at h
    rcases execNetRecv_cases n s with ⟨hc, e⟩ | ⟨hc, b, rest, ha, e⟩ | ⟨hc, rest, ha, e⟩ | ⟨hc, ha, e⟩ <;>
      rw [e] at h <;> cases h
    · exact .recvByte n b rest hc ha
    · exact .recvFail n rest hc ha
    · exact .recvWait n hc ha
  | pow n =>
    change powWith Config.digest n s = .next t at h
    rcases powWith_cases Config.digest n s with ⟨hd, e⟩ | ⟨hd, r, hs, e⟩ | ⟨hd, hs, e⟩ <;> rw [e] at h <;> cases h
    · exact .powFound n r hd hs
    · exact .powWait n hd hs

/-- The opcode of the fetched instruction is the opcode field of the byte at PC. -/
theorem fetchInstr_opcode (s : State) : s.fetchInstr.opcode = opcodeField (s.mem.read s.pc) :=
  (dispatch_fields _ _ _ _).2.1

/-- The fetched instruction is one the configuration has. -/
theorem fetchInstr_wellFormed (s : State) : s.fetchInstr.wellFormed s.cfg.ext15 = true :=
  (dispatch_fields _ _ _ _).1

/-- A stopped engine has no step. -/
theorem step_of_stopped {s : State} (h : s.running = false) : step s = .fault .notRunning := by simp [step, h]

/-- A running engine's step is its handler on the fetched state, with the end of the pass done. -/
theorem step_of_running {s : State} (h : s.running = true) : step s = finishPass (exec s.fetchInstr s.fetched) := by
  simp [step, h]

/-- What a step that answers a next state was. -/
theorem step_eq_next_iff (s t : State) :
    step s = .next t ↔ s.running = true ∧ ∃ u, exec s.fetchInstr s.fetched = .next u ∧ t = u.endOfPass := by
  cases h : s.running
  · simp [step, h]
  · rw [step_of_running h]
    cases hx : exec s.fetchInstr s.fetched <;> simp [finishPass, eq_comm]

/-- Everything a step that answers a next state can have done: a handler's effect on the fetched state, and the end of the
pass. -/
theorem step_effect {s t : State} (h : step s = .next t) :
    s.running = true ∧ ∃ u, HandlerEffect s.fetched s.fetchInstr u ∧ t = u.endOfPass := by
  obtain ⟨hr, u, hu, ht⟩ := (step_eq_next_iff s t).mp h
  exact ⟨hr, u, exec_effect hu, ht⟩

/-- No steps. -/
theorem run_zero (s : State) : run 0 s = .next s := rfl

/-- One step, then the others, of any machine. -/
theorem core_run_succ (M : Host.Core) (k : Nat) (s : M.State) : M.run (k + 1) s =
    match M.step s with
    | .next t => M.run k t
    | .fault r => .fault r
    | .refused r => .refused r := rfl

/-- One step, then the others. -/
theorem run_succ (k : Nat) (s : State) : run (k + 1) s =
    match step s with
    | .next t => run k t
    | .fault r => .fault r
    | .refused r => .refused r := by
  have h := core_run_succ Sys2Proof.core k s
  have hstep : Sys2Proof.core.step s = step s := rfl
  rw [hstep] at h
  refine h.trans ?_
  cases step s <;> rfl

/-- What `k + 1` steps that answer a next state were. -/
theorem run_succ_eq_next_iff (k : Nat) (s t : State) :
    run (k + 1) s = .next t ↔ ∃ u, step s = .next u ∧ run k u = .next t := by
  rw [run_succ]
  cases step s <;> simp

/-- A step that leaves the state leaves it for ever. -/
theorem run_of_step_self {s : State} (h : step s = .next s) (k : Nat) : run k s = .next s := by
  induction k with
  | zero => exact run_zero s
  | succ k ih => rw [run_succ, h]; exact ih

end Sys2Proof.Machine
end

