-- ==== Sys2Proof/Tests/Slice0.lean ====
section
/-! SUPPORT. The model's own tests. Expected results are the vectors of spec/95_test_vectors.md (named in the comments) or
worked by hand from the rule named; then one witness a statement that its hypotheses can be met. -/

namespace Sys2Proof.Tests

open Sys2Proof Sys2Proof.Machine

/-- The reset state with an image loaded, and PC and ACC as given. -/
def machineWith (image : List Byte) (pc acc : Byte) : State :=
  { State.reset with mem := loadImage image, pc := pc, acc := acc }

/-- The same in a configuration, its channel as start-up leaves it. -/
def machineIn (e : Ext15) (image : List Byte) : State :=
  { machineWith image 0#8 0#8 with
    channel := if e.hasChannel then .isOpen else .absent, cfg := { Config.default with ext15 := e } }

/-- The next state of an outcome, if it has one. -/
def next? : StepResult → Option State
  | .next t => some t
  | .fault _ => none
  | .refused _ => none

/-- What one step leaves, seen through a projection. -/
def afterStep {α : Type} (view : State → α) (s : State) : Option α := (next? (step s)).map view

/-! ### WellFormed: an operation of slot 15 that the configuration does not bind is refused (30_encoding.md R51) -/

theorem test_netSend_ill_formed_under_none : (Instr.netSend 1#4).wellFormed .none = false := by decide
theorem test_netRecv_ill_formed_under_netSend : (Instr.netRecv 1#4).wellFormed .netSend = false := by decide
theorem test_pow_ill_formed_under_netSend : (Instr.pow 1#4).wellFormed .netSend = false := by decide
theorem test_unknown_ill_formed_under_pow : (Instr.unknown 1#4).wellFormed .pow = false := by decide

/-! ### Decoding: words written out bit by bit from the table's patterns (95_test_vectors.md 2.1) -/

theorem test_decode_add : decode .none [0b00001111#8] = .ok (.add 15#4, []) := by decide
theorem test_decode_sub : decode .none [0b00011010#8] = .ok (.sub 10#4, []) := by decide
theorem test_decode_mul : decode .none [0b00100111#8] = .ok (.mul 7#4, []) := by decide
theorem test_decode_div : decode .none [0b00111111#8] = .ok (.div 15#4, []) := by decide
theorem test_decode_and : decode .none [0b01000001#8] = .ok (.and 1#4, []) := by decide
theorem test_decode_or : decode .none [0b01011100#8] = .ok (.or 12#4, []) := by decide
theorem test_decode_xor : decode .none [0b01100110#8] = .ok (.xor 6#4, []) := by decide
theorem test_decode_load : decode .none [0b01110000#8] = .ok (.load 0#4, []) := by decide
theorem test_decode_store : decode .none [0b10001111#8] = .ok (.store 15#4, []) := by decide
theorem test_decode_jump : decode .none [0b10010011#8] = .ok (.jump 3#4, []) := by decide
theorem test_decode_jz : decode .none [0b10100111#8, 0b00000101#8, 0b11010000#8] =
    .ok (.jz 7#4 5#8, [0b11010000#8]) := by decide
theorem test_decode_jnz : decode .none [0b10111111#8, 0b11111100#8] = .ok (.jnz 15#4 0xFC#8, []) := by decide
theorem test_decode_in : decode .none [0b11001001#8] = .ok (.input 9#4, []) := by decide
theorem test_decode_out : decode .none [0b11010000#8] = .ok (.output 0#4, []) := by decide
theorem test_decode_halt : decode .none [0b11101111#8] = .ok (.halt 15#4, []) := by decide
theorem test_decode_netSend : decode .netSend [0b11110001#8] = .ok (.netSend 1#4, []) := by decide
theorem test_decode_netRecv : decode .netRecv [0b11110001#8] = .ok (.netRecv 1#4, []) := by decide
theorem test_decode_pow : decode .pow [0b11110001#8] = .ok (.pow 1#4, []) := by decide
theorem test_decode_unknown : decode .none [0b11110001#8] = .ok (.unknown 1#4, []) := by decide
theorem test_decode_no_bytes : decode .none [] = .error .noBytes := by decide
theorem test_decode_offset_missing : decode .none [0b10100000#8] = .error .offsetByteMissing := by decide
theorem test_decodeTableWord_two_bytes : decodeTableWord 16 0xFCB0 = some (.jnz 0#4 0xFC#8) := by decide
theorem test_decodeTableWord_short_row : decodeTableWord 8 0xA0 = some (.jz 0#4 0#8) := by decide
theorem test_withFetchWord_from_reset : (State.reset.withFetchWord 16 0x05A0).fetchInstr = .jz 0#4 5#8 := by decide

/-! ### Arithmetic and logic (95_test_vectors.md 2.2, 2.3): the operand cell is cell 1, the instruction at 0 -/

theorem test_add_wraps : afterStep State.acc (machineWith [0x01#8, 10#8] 0#8 250#8) = some 4#8 := by decide
theorem test_add_steps_pc : afterStep State.pc (machineWith [0x01#8, 10#8] 0#8 250#8) = some 1#8 := by decide
theorem test_sub_wraps_below_zero : afterStep State.acc (machineWith [0x11#8, 10#8] 0#8 5#8) = some 251#8 := by decide
theorem test_mul_low_byte : afterStep State.acc (machineWith [0x21#8, 3#8] 0#8 200#8) = some 88#8 := by decide
theorem test_div_is_unsigned : afterStep State.acc (machineWith [0x31#8, 128#8] 0#8 200#8) = some 1#8 := by decide
theorem test_div_by_zero_goes_on : afterStep (fun t => (t.acc, t.running, t.pc))
    (machineWith [0x31#8, 0#8] 0#8 77#8) = some (77#8, true, 1#8) := by decide
theorem test_and : afterStep State.acc (machineWith [0x41#8, 0x0F#8] 0#8 0xCA#8) = some 0x0A#8 := by decide
theorem test_or : afterStep State.acc (machineWith [0x51#8, 0x0F#8] 0#8 0xC0#8) = some 0xCF#8 := by decide
theorem test_xor : afterStep State.acc (machineWith [0x61#8, 0x07#8] 0#8 0x0A#8) = some 0x0D#8 := by decide

/-! ### Data transfer (2.4) -/

theorem test_load_reads_its_own_byte : afterStep State.acc (machineWith [0x70#8] 0#8 0x11#8) = some 0x70#8 := by decide
theorem test_store_overwrites_itself_after_the_fetch :
    afterStep (fun t => (t.mem.read 3#8, t.pc)) (machineWith [0#8, 0#8, 0#8, 0x83#8] 3#8 0#8) = some (0#8, 4#8) := by decide
theorem test_store_of_zero_keeps_the_canonical_form :
    afterStep State.mem (machineWith [0x81#8, 7#8] 0#8 0#8) = some [(0, 0x81#8)] := by decide

/-! ### Control flow (2.5) -/

theorem test_jump_at_the_top : afterStep State.pc { machineWith [] 255#8 0#8 with mem := [(255, 0x90#8)] } = some 0#8 := by
  decide
theorem test_jz_taken_wraps_below_zero : afterStep State.pc (machineWith [0#8, 0xA0#8, 0xFC#8] 1#8 0#8) = some 254#8 := by
  decide
theorem test_jz_offset_byte_wraps_not_taken :
    afterStep State.pc { machineWith [] 255#8 7#8 with mem := [(0, 0x02#8), (255, 0xA0#8)] } = some 1#8 := by decide
theorem test_jnz_taken_backwards_base_one : afterStep State.pc { machineWith [0xB0#8, 0xFC#8] 0#8 2#8 with
    mem := [(7, 0xB0#8), (8, 0xFC#8)], pc := 7#8, cfg := { Config.default with jbase := .one } } = some 5#8 := by decide
theorem test_jnz_taken_past_the_top : afterStep State.pc { machineWith [] 249#8 1#8 with
    mem := [(249, 0xB0#8), (250, 0x10#8)] } = some 10#8 := by decide
theorem test_halt_at_the_top : afterStep (fun t => (t.running, t.cause, t.pc, t.channel))
    { machineWith [] 255#8 0#8 with mem := [(255, 0xE7#8)] } = some (false, .halt, 0#8, .closed) := by decide
theorem test_unknown_stops : afterStep (fun t => (t.running, t.cause, t.pc, t.mem))
    (machineIn .none [0xF1#8]) = some (false, .unknownInstruction, 1#8, [(0, 0xF1#8)]) := by decide

/-! ### Console (2.6) -/

theorem test_in_negative : afterStep (fun t => (t.acc, t.consoleTaken))
    { machineWith [0xC0#8] 0#8 9#8 with consoleIn := [.int (-1)] } = some (255#8, 1) := by decide
theorem test_in_bad_token : afterStep (fun t => (t.acc, t.cause, t.pc))
    { machineWith [0xC0#8] 0#8 9#8 with consoleIn := [.bad] } = some (9#8, .inputError, 1#8) := by decide
theorem test_out_appends : afterStep (fun t => (t.consoleOut, t.consoleLines))
    { machineWith [0xD0#8] 0#8 255#8 with consoleOut := [4#8] } = some ([4#8, 255#8], [[4], [2, 5, 5]]) := by decide

/-! ### Network (2.7) -/

theorem test_netSend_ok : afterStep (fun t => (t.sent, t.pc))
    { machineIn .netSend [0xF1#8, 0x41#8] with sendAnswers := [.ok] } = some ([0x41#8], 1#8) := by decide
theorem test_netSend_fail : afterStep (fun t => (t.sent, t.cause, t.channel))
    { machineIn .netSend [0xF1#8, 0x41#8] with sendAnswers := [.fail] } = some ([], .netError, .closed) := by decide
theorem test_netRecv_byte : afterStep (fun t => (t.mem.read 5#8, t.acc))
    { machineIn .netRecv [0xF5#8] with recvAnswers := [.byte 0x9C#8] } = some (0x9C#8, 0#8) := by decide
theorem test_netRecv_fail_leaves_the_cell : afterStep (fun t => (t.mem.read 1#8, t.cause))
    { machineIn .netRecv [0xF1#8, 0x77#8] with recvAnswers := [.fail] } = some (0x77#8, .netError) := by decide

/-! ### Proof-of-work (2.8), with the vectors' stand-in digests -/

/-- STUB_A of 95_test_vectors.md 2.8. -/
def stubA (block : List Byte) : Digest :=
  if ((block.drop 256).map BitVec.toNat).sum < 4 then Vector.replicate 32 0xFF#8 else Vector.replicate 32 0#8

/-- A digest that is always zero, so that nonce 0 qualifies. -/
def stubZero (_ : List Byte) : Digest := Vector.replicate 32 0#8

theorem test_target_12 : (target 12).take 3 = [0xFF#8, 0xF0#8, 0x00#8] := by decide
theorem test_nonceBytes_both_orders : (nonceBytes .le 0xDEADBEEF#32, nonceBytes .be 0x00000103#32) =
    ([0xEF#8, 0xBE#8, 0xAD#8, 0xDE#8], [0x00#8, 0x00#8, 0x01#8, 0x03#8]) := by decide
theorem test_search_stubA : search stubA .le (List.replicate 256 0#8) 8 = some 4#32 := by decide
theorem test_pow_stubA_writes_cells_4_to_7 :
    (next? (powWith stubA 4#4 (machineIn .pow [0xF4#8, 0x74#8, 0xD0#8, 0xE0#8, 0xAA#8, 0xBB#8, 0xCC#8, 0xDD#8]))).map
      (fun t => t.mem.readRange 3#8 5) = some [0xE0#8, 4#8, 0#8, 0#8, 0#8] := by decide

/-! ### Start-up (2.7, last row) -/

theorem test_failed_connection : (next? (startUp Config.default (some [0x70#8]) { Environment.silent with
    connects := false })).map (fun t => (t.running, t.cause, t.pc, t.mem)) =
    some (false, .netError, 0#8, [(0, 0x70#8)]) := by decide

/-! ### Witnesses: a concrete state and operands that meet all hypotheses of each statement that has any -/

theorem witness_EncodeThenDecode : (Instr.netSend 15#4).wellFormed .netSend = true := by decide

theorem witness_DecodeThenEncode : decode .pow [0xFF#8, 3#8] = .ok (.pow 15#4, [3#8]) := by decide

theorem witness_StartUpLoadsAndConnects_at_the_ends :
    (List.replicate 256 0xAB#8).length ≤ 256 ∧ (0 : Int) ≤ Config.default.difficulty ∧ Config.default.difficulty ≤ 256 ∧
    Config.default.ext15 = .netSend ∧ Environment.silent.connects = true :=
  ⟨List.length_replicate.le, by decide, by decide, by decide, by decide⟩

theorem witness_StartUpLoadsAndConnects_failed_connection :
    ({ Environment.silent with connects := false } : Environment).connects = false ∧
    ({ Config.default with ext15 := .netRecv, difficulty := 256 } : Config).difficulty ≤ 256 ∧
    ({ Config.default with ext15 := .netRecv } : Config).ext15 = .netRecv := by decide

theorem witness_StartUpLoadsAndConnects_no_channel :
    ({ Config.default with ext15 := .pow, difficulty := 0 } : Config).ext15 = .pow ∧
    (0 : Int) ≤ ({ Config.default with ext15 := .pow, difficulty := 0 } : Config).difficulty := by decide

theorem witness_StartUpAndPowRefusals : 256 < (List.replicate 257 0#8).length ∧
    (List.replicate 256 0#8).length ≤ 256 ∧ ({ Config.default with difficulty := 257 } : Config).difficulty > 256 ∧
    ({ Config.default with difficulty := -1 } : Config).difficulty < 0 :=
  ⟨by rw [List.length_replicate]; decide, List.length_replicate.le, by decide, by decide⟩

theorem witness_MemWriteThenMemRead : (List.replicate 256 0xAB#8).length ≤ 256 ∧
    ∀ i < [1#8, 2#8].length, (1#8 : Byte) ≠ 255#8 + BitVec.ofNat 8 i :=
  ⟨List.length_replicate.le, by decide⟩

theorem witness_CanonicalMemoriesAreEqual : (loadImage [1#8, 0#8, 2#8]).wf = true ∧ Memory.wf [(0, 1#8), (2, 2#8)] = true ∧
    ∀ a : Byte, (loadImage [1#8, 0#8, 2#8]).read a = Memory.read [(0, 1#8), (2, 2#8)] a := by decide

theorem witness_DivisionByZeroIsNoEvent : (machineWith [0x3F#8] 0#8 9#8).running = true ∧
    (machineWith [0x3F#8] 0#8 9#8).fetchInstr = .div 15#4 ∧
    (machineWith [0x3F#8] 0#8 9#8).mem.read (BitVec.ofNat 8 (15#4 : Nibble).toNat) = 0#8 := by decide

theorem witness_DivGivesTheUnsignedQuotient : (machineWith [0x30#8] 0#8 9#8).mem.read 0#8 ≠ 0#8 ∧
    (machineWith [0x30#8] 0#8 9#8).mem.read 15#8 = 0#8 := by decide

theorem witness_StoreThenLoadRoundTrip : (machineWith [0x80#8, 0x70#8] 0#8 0xA7#8).running = true ∧
    (machineWith [0x80#8, 0x70#8] 0#8 0xA7#8).mem.read 0#8 = BitVec.ofNat 8 (0x80 + (0#4 : Nibble).toNat) ∧
    (machineWith [0x80#8, 0x70#8] 0#8 0xA7#8).mem.read (0#8 + 1#8) = BitVec.ofNat 8 (0x70 + (0#4 : Nibble).toNat) ∧
    cellAddress 0#4 ≠ 0#8 + 1#8 := by decide

theorem witness_JzBranchesOnZero_and_JnzBranchesOnNonzero : (machineWith [] 0#8 0#8).acc = 0#8 ∧
    (machineWith [] 0#8 255#8).acc ≠ 0#8 := by decide

theorem witness_HaltEndsTheRun : (machineWith [0xE0#8] 0#8 0#8).running = true ∧
    (machineWith [0xE0#8] 0#8 0#8).fetchInstr = .halt 0#4 ∧ (machineWith [0xE0#8] 0#8 0#8).channel = .isOpen ∧
    (machineIn .none [0xE0#8]).fetchInstr = .halt 0#4 ∧ (machineIn .none [0xE0#8]).channel = .absent := by decide

theorem witness_UnknownInstructionEndsTheRun : (machineIn .none [0xFF#8]).running = true ∧
    (machineIn .none [0xFF#8]).cfg.ext15 = .none ∧
    (machineIn .none [0xFF#8]).mem.read (machineIn .none [0xFF#8]).pc = BitVec.ofNat 8 (0xF0 + (15#4 : Nibble).toNat) := by
  decide

theorem witness_InStoresTheLowByte :
    ({ State.reset with consoleIn := [.int (-256), .bad] } : State).consoleIn = .int (-256) :: [.bad] := by decide

theorem witness_InStopsOnBadInput : ({ State.reset with consoleIn := [.bad] } : State).consoleIn = .bad :: [] ∧
    ({ State.reset with consoleEnded := true } : State).consoleIn = [] ∧
    ({ State.reset with consoleEnded := true } : State).consoleEnded = true := by decide

theorem witness_NetSendSendsTheCell : State.reset.channel = .isOpen ∧
    ({ State.reset with sendAnswers := [.ok] } : State).sendAnswers = .ok :: [] ∧
    ({ State.reset with sendAnswers := [.fail] } : State).sendAnswers = .fail :: [] := by decide

theorem witness_NetRecvStoresTheByte : State.reset.channel = .isOpen ∧
    ({ State.reset with recvAnswers := [.byte 0#8] } : State).recvAnswers = .byte 0#8 :: [] ∧
    ({ State.reset with recvAnswers := [.fail] } : State).recvAnswers = .fail :: [] := by decide

theorem witness_TransferNeedsTheOpenChannel : (machineIn .pow []).channel ≠ .isOpen := by decide

theorem witness_TransportFailureReleasesTheChannel :
    (machineIn .netSend [0xF0#8]).running = true ∧ (machineIn .netSend [0xF0#8]).channel = .isOpen ∧
    ({ machineIn .netSend [0xF0#8] with sendAnswers := [.fail] } : State).fetchInstr = .netSend 0#4 ∧
    ({ machineIn .netSend [0xF0#8] with sendAnswers := [.fail] } : State).sendAnswers.head? = some .fail ∧
    ({ machineIn .netRecv [0xFF#8] with recvAnswers := [.fail] } : State).channel = .isOpen ∧
    ({ machineIn .netRecv [0xFF#8] with recvAnswers := [.fail] } : State).fetchInstr = .netRecv 15#4 ∧
    ({ machineIn .netRecv [0xFF#8] with recvAnswers := [.fail] } : State).recvAnswers.head? = some .fail := by decide

theorem witness_TargetIsTopBitsSet_and_BelowTarget : (0 : Nat) ≤ 256 ∧ (256 : Nat) ≤ 256 := by decide

theorem witness_BigEndianOrderIsLexicographic : [0xFF#8, 0x00#8].length = [0xFF#8, 0x01#8].length := by decide

theorem search_stubZero (order : NonceOrder) (image : List Byte) {d : Nat} (h : 0 < bigEndian (target d)) :
    search stubZero order image d = some 0#32 := by
  have zero : bigEndian (stubZero (candidateBlock order image 0#32)).toList = 0 := by
    change bigEndian (Vector.replicate 32 0#8).toList = 0
    decide
  simp [search, searchFrom, qualifies, zero, h]

theorem witness_LargerDifficultyFindsNoLater : (1 : Nat) ≤ 256 ∧ (256 : Nat) ≤ 256 ∧
    search stubZero .le [] 1 = some 0#32 :=
  ⟨by decide, by decide, search_stubZero .le [] (by decide)⟩

theorem witness_PowWritesTheLeastNonce :
    (0 : Int) ≤ (machineIn .pow [0xFF#8]).cfg.difficulty ∧ (machineIn .pow [0xFF#8]).cfg.difficulty ≤ 256 ∧
    qualifies stubZero (machineIn .pow [0xFF#8]).cfg.nonceOrder (machineIn .pow [0xFF#8]).image
      (machineIn .pow [0xFF#8]).cfg.difficulty.toNat 0#32 = true ∧
    ∀ m : Nonce, m.toNat < (0#32 : Nonce).toNat → qualifies stubZero (machineIn .pow [0xFF#8]).cfg.nonceOrder
      (machineIn .pow [0xFF#8]).image (machineIn .pow [0xFF#8]).cfg.difficulty.toNat m = false :=
  ⟨by decide, by decide, by decide, fun _ h => absurd h (Nat.not_lt_zero _)⟩

theorem witness_PowCompletesOrSearchesForEver :
    (0 : Int) ≤ ({ Config.default with difficulty := 0 } : Config).difficulty ∧
    ({ Config.default with difficulty := 256 } : Config).difficulty ≤ 256 := by decide

/-- A running POW engine with DIFFICULTY = 0. -/
def powZero : State := { machineIn .pow [0xF4#8] with cfg := { Config.default with ext15 := .pow, difficulty := 0 } }

theorem witness_DifficultyZeroNeverCompletes :
    powZero.running = true ∧ powZero.cfg.difficulty = 0 ∧ powZero.fetchInstr = .pow 4#4 := by decide

theorem witness_StepRunsTheDecodedInstruction : (machineWith [0xA0#8, 5#8] 0#8 0#8).running = true ∧
    decode .netSend ((machineWith [0xA0#8, 5#8] 0#8 0#8).mem.readRange 0#8 2) = .ok (.jz 0#4 5#8, []) ∧
    decode .netSend ((machineWith [0xE0#8, 5#8] 0#8 0#8).mem.readRange 0#8 2) = .ok (.halt 0#4, [5#8]) := by decide

/-- A running step that answers a next state: the hypothesis of the statements about every step. -/
theorem witness_step : ∃ t, step (machineWith [0x92#8] 0#8 0#8) = .next t := ⟨_, rfl⟩

theorem witness_PcAfterAStep : (afterStep State.pc (machineWith [0x92#8] 0#8 0#8) = some 2#8) ∧
    (afterStep State.pc (machineWith [0xC0#8] 0#8 0#8) = some 0#8) := by decide

theorem witness_StopsAreListedAndPrecise :
    afterStep (fun t => (t.running, t.cause)) (machineWith [0xE0#8] 0#8 0#8) = some (false, .halt) ∧
    afterStep (fun t => (t.running, t.cause)) (machineIn .none [0xF0#8]) = some (false, .unknownInstruction) ∧
    afterStep (fun t => (t.running, t.cause)) { machineWith [0xCF#8] 0#8 0#8 with consoleEnded := true } =
      some (false, .inputError) ∧
    afterStep (fun t => (t.running, t.cause)) { machineIn .netRecv [0xF0#8] with recvAnswers := [.fail] } =
      some (false, .netError) := by decide

theorem witness_StoppedEngineHasNoStep : (State.reset.raiseStop .halt).running = false := by decide

theorem witness_UnansweredWaitChangesNothing :
    ((machineWith [0xC0#8] 0#8 0#8).fetchInstr = .input 0#4 ∧ (machineWith [0xC0#8] 0#8 0#8).consoleIn = [] ∧
      (machineWith [0xC0#8] 0#8 0#8).consoleEnded = false ∧ (machineWith [0xC0#8] 0#8 0#8).running = true) ∧
    ((machineIn .netSend [0xF0#8]).fetchInstr = .netSend 0#4 ∧ (machineIn .netSend [0xF0#8]).channel = .isOpen ∧
      (machineIn .netSend [0xF0#8]).sendAnswers = [] ∧ (machineIn .netSend [0xF0#8]).running = true) ∧
    ((machineIn .netRecv [0xF0#8]).fetchInstr = .netRecv 0#4 ∧ (machineIn .netRecv [0xF0#8]).channel = .isOpen ∧
      (machineIn .netRecv [0xF0#8]).recvAnswers = [] ∧ (machineIn .netRecv [0xF0#8]).running = true) := by decide

theorem witness_NextFetchSeesTheStore : (machineWith [0x81#8, 0xD0#8] 0#8 0xE0#8).running = true ∧
    (machineWith [0x81#8, 0xD0#8] 0#8 0xE0#8).mem.read 0#8 = BitVec.ofNat 8 (0x80 + (1#4 : Nibble).toNat) ∧
    cellAddress 1#4 = 0#8 + 1#8 := by decide

theorem witness_StartUpMeetsTheInvariant : ∃ s, startUp Config.default (some [0x70#8, 0xE0#8]) Environment.silent = .next s :=
  ⟨_, rfl⟩

theorem machineIn_inv (e : Ext15) : (machineIn e [0xD0#8]).Inv := by
  cases e <;> exact ⟨by decide, by decide, by decide, by decide⟩

theorem witness_StepKeepsTheInvariant : (machineIn .netRecv [0xD0#8]).Inv ∧
    ∃ t, step (machineIn .netRecv [0xD0#8]) = .next t := ⟨machineIn_inv _, _, rfl⟩

theorem witness_RunningEngineHasAStep : (machineIn .pow [0xD0#8]).Inv ∧ (machineIn .pow [0xD0#8]).running = true :=
  ⟨machineIn_inv _, by decide⟩

theorem witness_RunKeepsTheConfiguration_and_StreamsKeepTheirOrder :
    ∃ t, run 2 (machineWith [0xD0#8, 0xD0#8] 0#8 7#8) = .next t := ⟨_, rfl⟩

theorem witness_AccIsWrittenByTheListedOnly : afterStep State.acc (machineWith [0x70#8] 0#8 0#8) = some 0x70#8 ∧
    (0x70#8 : Byte) ≠ (machineWith [0x70#8] 0#8 0#8).acc := by decide

theorem witness_CellsAreWrittenByTheListedOnly :
    afterStep (fun t => t.mem.read 15#8) (machineWith [0x8F#8] 0#8 4#8) = some 4#8 ∧
    (4#8 : Byte) ≠ (machineWith [0x8F#8] 0#8 4#8).mem.read 15#8 ∧
    afterStep (fun t => t.mem.read 0#8) { machineIn .netRecv [0xF0#8] with recvAnswers := [.byte 0#8] } = some 0#8 ∧
    (0#8 : Byte) ≠ (machineIn .netRecv [0xF0#8]).mem.read 0#8 := by decide

theorem witness_RecordsAreNeverReadBack :
    (machineWith [0xD0#8] 0#8 7#8).SameToProgram { machineWith [0xD0#8] 0#8 7#8 with consoleOut := [1#8], received := 3 } ∧
    ∃ t, run 1 (machineWith [0xD0#8] 0#8 7#8) = .next t :=
  ⟨⟨rfl, rfl, rfl, rfl, rfl, rfl, rfl, rfl, rfl, rfl, rfl⟩, _, rfl⟩

end Sys2Proof.Tests
end

section
/-! SUPPORT. Memory is its cells: two canonical memories with the same cells are the same list (10_state.md R16). -/

namespace Sys2Proof.Machine

theorem cell_cons_self (a : Nat) (v : Byte) (rest : Memory) : Memory.cell ((a, v) :: rest) a = v := by
  simp [Memory.cell]

theorem cell_cons_of_ne {a b : Nat} (v : Byte) (rest : Memory) (h : a ≠ b) :
    Memory.cell ((a, v) :: rest) b = rest.cell b := by
  simp [Memory.cell, h]

theorem wfFrom_cons_iff (lo a : Nat) (v : Byte) (rest : Memory) :
    Memory.wfFrom lo ((a, v) :: rest) = true ↔
      lo ≤ a ∧ a < 256 ∧ v ≠ 0#8 ∧ Memory.wfFrom (a + 1) rest = true := by
  simp [Memory.wfFrom, and_assoc]

/-- A canonical list lists no key below its bound. -/
theorem cell_eq_zero_of_lt {m : Memory} {lo a : Nat} (hm : m.wfFrom lo = true) (ha : a < lo) : m.cell a = 0#8 := by
  induction m generalizing lo with
  | nil => rfl
  | cons c rest ih =>
    obtain ⟨b, v⟩ := c
    obtain ⟨hlo, -, -, hrest⟩ := (wfFrom_cons_iff lo b v rest).mp hm
    rw [cell_cons_of_ne v rest (by omega)]
    exact ih hrest (by omega)

/-- The first key of a canonical list is no less than that of another with the same cells: it holds a
nonzero byte. -/
theorem not_lt_of_cell_eq {a b lo : Nat} {v w : Byte} {rest rest' : Memory}
    (hm : Memory.wfFrom lo ((a, v) :: rest) = true) (hm' : Memory.wfFrom lo ((b, w) :: rest') = true)
    (h : ∀ k < 256, Memory.cell ((a, v) :: rest) k = Memory.cell ((b, w) :: rest') k) : ¬ a < b := by
  intro hlt
  obtain ⟨-, ha, hv, -⟩ := (wfFrom_cons_iff lo a v rest).mp hm
  obtain ⟨-, -, -, hrest'⟩ := (wfFrom_cons_iff lo b w rest').mp hm'
  have hcell := h a ha
  rw [cell_cons_self, cell_cons_of_ne w rest' (by omega), cell_eq_zero_of_lt hrest' (by omega)] at hcell
  exact hv hcell

/-- Canonical lists with the same 256 cells are equal. -/
theorem wfFrom_ext {m m' : Memory} {lo : Nat} (hm : m.wfFrom lo = true) (hm' : m'.wfFrom lo = true)
    (h : ∀ k < 256, m.cell k = m'.cell k) : m = m' := by
  induction m generalizing m' lo with
  | nil =>
    cases m' with
    | nil => rfl
    | cons c rest' =>
      obtain ⟨b, w⟩ := c
      obtain ⟨-, hb, hw, -⟩ := (wfFrom_cons_iff lo b w rest').mp hm'
      exact absurd ((cell_cons_self b w rest').symm.trans (h b hb).symm) hw
  | cons c rest ih =>
    obtain ⟨a, v⟩ := c
    obtain ⟨-, ha, hv, hrest⟩ := (wfFrom_cons_iff lo a v rest).mp hm
    cases m' with
    | nil => exact absurd ((cell_cons_self a v rest).symm.trans (h a ha)) hv
    | cons c' rest' =>
      obtain ⟨b, w⟩ := c'
      have hab := not_lt_of_cell_eq hm hm' h
      have hba := not_lt_of_cell_eq hm' hm fun k hk => (h k hk).symm
      obtain rfl : a = b := by omega
      obtain ⟨-, -, -, hrest'⟩ := (wfFrom_cons_iff lo a w rest').mp hm'
      have hvw : v = w := by simpa only [cell_cons_self] using h a ha
      have hcells : ∀ k < 256, Memory.cell rest k = Memory.cell rest' k := by
        intro k hk
        by_cases hka : a = k
        · rw [cell_eq_zero_of_lt hrest (by omega), cell_eq_zero_of_lt hrest' (by omega)]
        · simpa only [cell_cons_of_ne _ _ hka] using h k hk
      rw [hvw, ih hrest hrest' hcells]

/-- Settles O11: equal keys and equal bytes, by induction on the first memory's list. -/
theorem canonicalMemoriesAreEqual : Obligations.CanonicalMemoriesAreEqual := by
  intro m m' hm hm' h
  refine wfFrom_ext hm hm' fun k hk => ?_
  simpa [Memory.read, Nat.mod_eq_of_lt hk] using h (BitVec.ofNat 8 k)

end Sys2Proof.Machine
end

section
/-! SUPPORT. What a handler's effect keeps: the channel, the configuration, canonical memory, ACC but for the listed
opcodes; and the invariant of a run. -/

namespace Sys2Proof.Machine

/-- No handler opens or closes the channel. -/
theorem HandlerEffect.channel_eq {s u : State} {i : Instr} (h : HandlerEffect s i u) : u.channel = s.channel := by
  cases h <;> rfl

/-- No handler writes the configuration. -/
theorem HandlerEffect.cfg_eq {s u : State} {i : Instr} (h : HandlerEffect s i u) : u.cfg = s.cfg := by
  cases h <;> rfl

/-- The handlers that write memory do it by the writes that keep the canonical form. -/
theorem HandlerEffect.mem_wf {s u : State} {i : Instr} (h : HandlerEffect s i u) (hm : s.mem.wf = true) :
    u.mem.wf = true := by
  cases h with
  | store => exact wf_write _ _ hm
  | recvByte => exact wf_write _ _ hm
  | powFound => exact wf_writeRange _ _ _ hm
  | _ => exact hm

/-- A handler either leaves RUNNING and CAUSE or raises a stop with a cause other than NONE. -/
theorem HandlerEffect.cause_iff_running {s u : State} {i : Instr} (h : HandlerEffect s i u)
    (hs : s.cause = .none ↔ s.running = true) : u.cause = .none ↔ u.running = true := by
  cases h with
  | inputBad | inputEnded | halt | unknown | sendFail | recvFail => simp
  | _ => exact hs

/-- ACC is written by the ALU's opcodes 0 to 7 and by IN. -/
theorem HandlerEffect.opcode_of_acc_ne {s u : State} {i : Instr} (h : HandlerEffect s i u) (hacc : u.acc ≠ s.acc) :
    i.opcode.toNat ≤ 7 ∨ i.opcode.toNat = 12 := by
  cases h with
  | accOnly _ _ hop => exact .inl hop
  | inputInt => exact .inr rfl
  | _ => exact absurd rfl hacc

/-- The channel after the end of a pass: a stopped loop has closed it, where there is one (60_exceptions.md R125). -/
theorem endOfPass_channel (s : State) : s.endOfPass.channel =
    if s.running then s.channel else if s.channel = .absent then .absent else .closed := by
  cases h : s.running
  · simp [endOfPass_of_stopped h]
  · simp [endOfPass_of_running h]

/-- The invariant does not speak of PC, so the fetch keeps it. -/
theorem State.Inv.fetched {s : State} (h : s.Inv) : s.fetched.Inv := ⟨h.memory, h.cause, h.channel, h.difficulty⟩

/-- A handler run on a sound running state, and the end of the pass, leave a sound state. -/
theorem HandlerEffect.inv_endOfPass {s u : State} {i : Instr} (h : HandlerEffect s i u) (hs : s.Inv)
    (hr : s.running = true) : u.endOfPass.Inv where
  memory := by simpa using h.mem_wf hs.memory
  cause := by simpa using h.cause_iff_running hs.cause
  channel := by
    have hchannel : u.channel = if u.cfg.ext15.hasChannel then .isOpen else .absent := by
      simpa [h.cfg_eq, h.channel_eq, hr] using hs.channel
    rw [endOfPass_channel, hchannel, endOfPass_cfg, endOfPass_running]
    cases u.cfg.ext15.hasChannel <;> simp
  difficulty := by simpa [h.cfg_eq] using hs.difficulty

/-- Settles O52: a step is a handler's effect on the fetched state, then the end of the pass. -/
theorem stepKeepsTheInvariant : Obligations.StepKeepsTheInvariant := by
  intro s t hs hstep
  obtain ⟨hr, u, hu, rfl⟩ := step_effect hstep
  exact hu.inv_endOfPass hs.fetched hr

/-- The opcode field is the byte's upper half (30_encoding.md R46). -/
theorem toNat_opcodeField (ir : Byte) : (opcodeField ir).toNat = ir.toNat / 16 := by
  have := ir.isLt
  simp only [opcodeField, BitVec.extractLsb'_toNat, Nat.shiftRight_eq_div_pow]
  omega

/-- Settles O55: the fetch leaves ACC, and so does the end of the pass. -/
theorem accIsWrittenByTheListedOnly : Obligations.AccIsWrittenByTheListedOnly := by
  intro s t hstep hacc
  obtain ⟨-, u, hu, rfl⟩ := step_effect hstep
  rw [endOfPass_acc] at hacc
  simpa only [fetchInstr_opcode, toNat_opcodeField] using hu.opcode_of_acc_ne hacc

/-- Settles O50, field by field. -/
theorem resetMeetsTheInvariant : Obligations.ResetMeetsTheInvariant where
  memory := wf_reset
  cause := iff_of_true rfl rfl
  channel := rfl
  difficulty := by decide

/-- Start-up from the empty image, with a connected environment that has answered nothing, leaves the reset state. -/
theorem startUp_empty_silent : startUp Config.default (some []) Environment.silent = .next State.reset := rfl

/-- Settles O7, field by field. -/
theorem resetLeavesTheStatedState : Obligations.ResetLeavesTheStatedState :=
  ⟨rfl, rfl, rfl, read_empty, rfl, rfl, rfl, rfl, rfl, rfl, rfl, rfl, rfl, rfl, startUp_empty_silent⟩

theorem execNetSend_of_not_open {s : State} (h : s.channel ≠ .isOpen) (n : Nibble) :
    execNetSend n s = .fault .channelNotOpen := by
  rcases execNetSend_cases n s with ⟨-, e⟩ | ⟨ho, -⟩ | ⟨ho, -⟩ | ⟨ho, -⟩
  · exact e
  all_goals exact absurd ho h

theorem execNetRecv_of_not_open {s : State} (h : s.channel ≠ .isOpen) (n : Nibble) :
    execNetRecv n s = .fault .channelNotOpen := by
  rcases execNetRecv_cases n s with ⟨-, e⟩ | ⟨ho, -⟩ | ⟨ho, -⟩ | ⟨ho, -⟩
  · exact e
  all_goals exact absurd ho h

/-- Settles O33: with no open channel the fault is the one way either transfer ends. -/
theorem transferNeedsTheOpenChannel : Obligations.TransferNeedsTheOpenChannel :=
  fun n _ h => ⟨execNetSend_of_not_open h n, execNetRecv_of_not_open h n⟩

end Sys2Proof.Machine
end

section
/-! SUPPORT. The records a program cannot read (10_state.md R25): a machine run on a state with other records does the
same and adds the same to them. -/

namespace Sys2Proof.Machine

/-- What a run writes down and no instruction reads back: the outputs and the counts. -/
structure Records where
  consoleTaken : Nat
  consoleOut : List Byte
  sent : List Byte
  received : Nat

/-- Nothing recorded. -/
def Records.empty : Records := ⟨0, [], [], 0⟩

/-- The records with later ones added at the end. -/
def Records.append (r d : Records) : Records :=
  ⟨r.consoleTaken + d.consoleTaken, r.consoleOut ++ d.consoleOut, r.sent ++ d.sent, r.received + d.received⟩

@[simp] theorem Records.append_empty (r : Records) : r.append .empty = r := by
  simp [Records.append, Records.empty]

theorem Records.append_assoc (r d e : Records) : (r.append d).append e = r.append (d.append e) := by
  simp [Records.append, Nat.add_assoc]

/-- The records of a state. -/
def State.records (s : State) : Records := ⟨s.consoleTaken, s.consoleOut, s.sent, s.received⟩

/-- The state with other records. -/
def State.withRecords (s : State) (r : Records) : State :=
  { s with consoleTaken := r.consoleTaken, consoleOut := r.consoleOut, sent := r.sent, received := r.received }

@[simp] theorem withRecords_records (s : State) : s.withRecords s.records = s := rfl

/-- Two states a program cannot tell apart are one state with two records. -/
theorem sameToProgram_iff (s s' : State) : s.SameToProgram s' ↔ s' = s.withRecords s'.records := by
  constructor
  · rintro ⟨hpc, hacc, hmem, hrun, hcause, hin, hend, hchan, hsend, hrecv, hcfg⟩
    cases s'
    simp_all [State.withRecords, State.records]
  · intro h
    rw [h]
    exact ⟨rfl, rfl, rfl, rfl, rfl, rfl, rfl, rfl, rfl, rfl, rfl⟩

/-! ### What reads and writes no record commutes with replacing them -/

theorem aluInto_withRecords (s : State) (r : Records) (op : AluOp) (n : Nibble) :
    (s.withRecords r).aluInto op n = (s.aluInto op n).withRecords r := by
  simp only [aluInto_eq_setAcc]
  rfl

theorem closeChannel_withRecords (s : State) (r : Records) :
    (s.withRecords r).closeChannel = s.closeChannel.withRecords r := by
  simp only [closeChannel_eq]
  rfl

theorem endOfPass_withRecords (s : State) (r : Records) :
    (s.withRecords r).endOfPass = s.endOfPass.withRecords r := by
  cases h : s.running
  · rw [endOfPass_of_stopped h, ← closeChannel_withRecords]
    exact endOfPass_of_stopped h
  · rw [endOfPass_of_running h]
    exact endOfPass_of_running h

/-! ### Handlers, steps and runs -/

/-- From `s`, whatever its records, `f` goes to `t`, and what it adds to the records does not depend on them. -/
def IgnoresRecords (f : State → StepResult) (s t : State) : Prop :=
  ∃ d : Records, ∀ r, f (s.withRecords r) = .next (t.withRecords (r.append d))

/-- What adds nothing to the records. -/
theorem IgnoresRecords.of_keeps {f : State → StepResult} {s t : State}
    (h : ∀ r, f (s.withRecords r) = .next (t.withRecords r)) : IgnoresRecords f s t :=
  ⟨.empty, fun r => by rw [h, Records.append_empty]⟩

/-- The ALU's instructions add nothing to the records. -/
theorem ignoresRecords_aluInto (s : State) (op : AluOp) (n : Nibble) :
    IgnoresRecords (fun u => .next (u.aluInto op n)) s (s.aluInto op n) :=
  .of_keeps fun r => congrArg Host.Outcome.next (aluInto_withRecords s r op n)

/-- IN adds one to the count of tokens where it takes one. -/
theorem ignoresRecords_execIn {n : Nibble} {s t : State} (h : execIn n s = .next t) :
    IgnoresRecords (execIn n) s t := by
  rcases execIn_cases n s with ⟨k, rest, hin, e⟩ | ⟨rest, hin, e⟩ | ⟨hin, hend, e⟩ | ⟨hin, hend, e⟩ <;>
    rw [e] at h <;> cases h
  · exact ⟨⟨1, [], [], 0⟩, fun r => by
      simp [execIn, State.stdinRead, State.withRecords, Records.append, hin, State.setAcc]⟩
  · exact ⟨⟨1, [], [], 0⟩, fun r => by
      simp [execIn, State.stdinRead, State.withRecords, Records.append, hin, State.raiseStop]⟩
  · exact .of_keeps fun r => by
      simp [execIn, State.stdinRead, State.withRecords, hin, hend, State.raiseStop]
  · exact .of_keeps fun r => by
      simp [execIn, State.stdinRead, State.withRecords, hin, hend, State.notCompleted, State.setPc]

/-- OUT adds the value of ACC to the console output. -/
theorem ignoresRecords_execOut (n : Nibble) (s : State) : IgnoresRecords (execOut n) s (s.stdoutWrite s.acc) :=
  ⟨⟨0, [s.acc], [], 0⟩, fun r => by
    simp [execOut, State.stdoutWrite, State.withRecords, Records.append]⟩

/-- NET_SEND adds the operand cell to the bytes sent where the send succeeds. -/
theorem ignoresRecords_execNetSend {n : Nibble} {s t : State} (h : execNetSend n s = .next t) :
    IgnoresRecords (execNetSend n) s t := by
  rcases execNetSend_cases n s with ⟨hc, e⟩ | ⟨hc, rest, ha, e⟩ | ⟨hc, rest, ha, e⟩ | ⟨hc, ha, e⟩ <;>
    rw [e] at h <;> cases h
  · exact ⟨⟨0, [], [s.operandCell n], 0⟩, fun r => by
      simp [execNetSend, State.netSend, State.withRecords, Records.append, hc, ha, State.operandCell]⟩
  · exact .of_keeps fun r => by
      simp [execNetSend, State.netSend, State.withRecords, hc, ha, State.raiseStop]
  · exact .of_keeps fun r => by
      simp [execNetSend, State.netSend, State.withRecords, hc, ha, State.notCompleted, State.setPc]

/-- NET_RECV adds one to the count of bytes received where it receives one. -/
theorem ignoresRecords_execNetRecv {n : Nibble} {s t : State} (h : execNetRecv n s = .next t) :
    IgnoresRecords (execNetRecv n) s t := by
  rcases execNetRecv_cases n s with ⟨hc, e⟩ | ⟨hc, b, rest, ha, e⟩ | ⟨hc, rest, ha, e⟩ | ⟨hc, ha, e⟩ <;>
    rw [e] at h <;> cases h
  · exact ⟨⟨0, [], [], 1⟩, fun r => by
      simp [execNetRecv, State.netRecv, State.withRecords, Records.append, hc, ha, State.writeCell, State.setMem]⟩
  · exact .of_keeps fun r => by
      simp [execNetRecv, State.netRecv, State.withRecords, hc, ha, State.raiseStop]
  · exact .of_keeps fun r => by
      simp [execNetRecv, State.netRecv, State.withRecords, hc, ha, State.notCompleted, State.setPc]

theorem powSearch_withRecords (digest : List Byte → Digest) (s : State) (r : Records) :
    (s.withRecords r).powSearch digest = s.powSearch digest := rfl

/-- POW adds nothing to the records: its search reads memory and the configuration. -/
theorem ignoresRecords_powWith {digest : List Byte → Digest} {n : Nibble} {s t : State}
    (h : powWith digest n s = .next t) : IgnoresRecords (powWith digest n) s t := by
  refine .of_keeps fun r => ?_
  have hcfg : (s.withRecords r).cfg = s.cfg := rfl
  rcases powWith_cases digest n s with ⟨hd, e⟩ | ⟨hd, x, hx, e⟩ | ⟨hd, hx, e⟩ <;> rw [e] at h <;> cases h
  · simp only [powWith, powSearch_withRecords, hcfg, hd, hx]
    rfl
  · simp only [powWith, powSearch_withRecords, hcfg, hd, hx]
    rfl

/-- No handler reads the records. -/
theorem ignoresRecords_exec {i : Instr} {s t : State} (h : exec i s = .next t) : IgnoresRecords (exec i) s t := by
  cases i with
  | add n => cases h; exact ignoresRecords_aluInto s .add n
  | sub n => cases h; exact ignoresRecords_aluInto s .sub n
  | mul n => cases h; exact ignoresRecords_aluInto s .mul n
  | div n => cases h; exact ignoresRecords_aluInto s .div n
  | and n => cases h; exact ignoresRecords_aluInto s .and n
  | or n => cases h; exact ignoresRecords_aluInto s .or n
  | xor n => cases h; exact ignoresRecords_aluInto s .xor n
  | load n => cases h; exact ignoresRecords_aluInto s .pass n
  | input n => exact ignoresRecords_execIn (n := n) h
  | output n => cases h; exact ignoresRecords_execOut n s
  | netSend n => exact ignoresRecords_execNetSend (n := n) h
  | netRecv n => exact ignoresRecords_execNetRecv (n := n) h
  | pow n => exact ignoresRecords_powWith (n := n) h
  | store | jump | jz | jnz | halt | unknown => cases h; exact .of_keeps fun _ => rfl

/-- No step reads the records: neither the fetch nor the end of the pass does. -/
theorem ignoresRecords_step {s t : State} (h : step s = .next t) : IgnoresRecords step s t := by
  obtain ⟨hr, u, hu, rfl⟩ := (step_eq_next_iff s t).mp h
  obtain ⟨d, hd⟩ := ignoresRecords_exec hu
  exact ⟨d, fun r => (step_eq_next_iff _ _).mpr
    ⟨hr, u.withRecords (r.append d), hd r, (endOfPass_withRecords u _).symm⟩⟩

/-- No run reads the records. -/
theorem ignoresRecords_run {k : Nat} {s t : State} (h : run k s = .next t) : IgnoresRecords (run k) s t := by
  induction k generalizing s with
  | zero =>
    rw [run_zero] at h
    cases h
    exact .of_keeps fun r => run_zero _
  | succ k ih =>
    obtain ⟨u, hstep, hrun⟩ := (run_succ_eq_next_iff k s t).mp h
    obtain ⟨d, hd⟩ := ignoresRecords_step hstep
    obtain ⟨e, he⟩ := ih hrun
    refine ⟨d.append e, fun r => (run_succ_eq_next_iff k _ _).mpr ⟨_, hd r, ?_⟩⟩
    rw [← Records.append_assoc]
    exact he _

/-- What was added to a run's own records is what it ends with. -/
theorem records_eq_append {f : State → StepResult} {s t : State} {d : Records} (h : f s = .next t)
    (hd : ∀ r, f (s.withRecords r) = .next (t.withRecords (r.append d))) : t.records = s.records.append d := by
  have hs := hd s.records
  rw [withRecords_records, h] at hs
  exact congrArg State.records (Host.Outcome.next.inj hs)

/-- Settles O58: the second state is the first with other records, and the run adds the same to both. -/
theorem recordsAreNeverReadBack : Obligations.RecordsAreNeverReadBack := by
  intro k s s' t hsame hrun
  obtain ⟨d, hd⟩ := ignoresRecords_run hrun
  have ht : t.records = s.records.append d := records_eq_append hrun hd
  have hs' : s' = s.withRecords s'.records := (sameToProgram_iff s s').mp hsame
  exact ⟨t.withRecords (s'.records.append d), hs' ▸ hd s'.records, (sameToProgram_iff _ _).mpr rfl,
    ⟨d.consoleOut, congrArg Records.consoleOut ht, rfl⟩, d.sent, congrArg Records.sent ht, rfl⟩

end Sys2Proof.Machine
end

section
/-! SUPPORT. Ranges of memory: what is read from a range just written (20_memory.md R31, R32). -/

namespace Sys2Proof.Machine

@[simp] theorem readRange_zero (m : Memory) (a : Byte) : m.readRange a 0 = [] := rfl

/-- A range is its first cell, then the range from the next address on. -/
theorem readRange_succ (m : Memory) (a : Byte) (n : Nat) :
    m.readRange a (n + 1) = m.read a :: m.readRange (a + 1#8) n := by
  simp [Memory.readRange, List.range_succ_eq_map, BitVec.add_assoc, BitVec.ofNat_add, BitVec.add_comm 1#8]

/-- The addresses of a range of at most 256 cells do not come round to its first one. -/
theorem ne_add_one_add_ofNat (a : Byte) {i : Nat} (hi : i < 255) : a ≠ a + 1#8 + BitVec.ofNat 8 i := by
  intro h
  have := congrArg BitVec.toNat h
  have := a.isLt
  simp only [BitVec.toNat_add, BitVec.toNat_ofNat] at *
  omega

/-- The first byte of a range stands in the range's first cell: the later writes do not reach it. -/
theorem read_writeRange_first (m : Memory) (a v : Byte) {vs : List Byte} (h : vs.length < 256) :
    (m.writeRange a (v :: vs)).read a = v := by
  rw [Memory.writeRange, read_writeRange_of_ne _ _ _ _ fun i hi => ne_add_one_add_ofNat a (by omega),
    read_write_self]

/-- A range of at most 256 bytes is read back as written. -/
theorem readRange_writeRange (m : Memory) (a : Byte) {vs : List Byte} (h : vs.length ≤ 256) :
    (m.writeRange a vs).readRange a vs.length = vs := by
  induction vs generalizing m a with
  | nil => rfl
  | cons v vs ih =>
    rw [List.length_cons] at h ⊢
    rw [readRange_succ, read_writeRange_first m a v (by omega), Memory.writeRange, ih _ _ (by omega)]

/-- Settles O10: the read by induction on the bytes, the frame by the law of `writeRange`. -/
theorem memWriteThenMemRead : Obligations.MemWriteThenMemRead := fun m a vs h =>
  ⟨readRange_writeRange m a h, read_writeRange_of_ne vs m a⟩

end Sys2Proof.Machine
end

section
/-! SUPPORT. The fetch after a store (20_memory.md R41). -/

namespace Sys2Proof

/-- "Conversely `ir = 16 * opc + opd`" (30_encoding.md R46), on numbers. -/
theorem packFields_eq_ofNat (opc opd : Nibble) : packFields opc opd = BitVec.ofNat 8 (16 * opc.toNat + opd.toNat) := by
  revert opc opd; decide

/-- A byte given by its two fields is dispatched on them. -/
theorem decodeBytes_ofNat (e : Ext15) (opc opd : Nibble) (off : Byte) :
    decodeBytes e (BitVec.ofNat 8 (16 * opc.toNat + opd.toNat)) off = dispatch e opc opd off := by
  rw [← packFields_eq_ofNat, decodeBytes, opcodeField_packFields, operandField_packFields]

end Sys2Proof

namespace Sys2Proof.Machine

/-- A byte 0x80 to 0x8F at PC is fetched as a STORE. -/
theorem fetchInstr_store {s : State} {n : Nibble} (h : s.mem.read s.pc = BitVec.ofNat 8 (0x80 + n.toNat)) :
    s.fetchInstr = .store n := by
  rw [State.fetchInstr, h]
  exact decodeBytes_ofNat s.cfg.ext15 8#4 n _

/-- A running engine that fetches a STORE writes ACC to the cell, goes to the next address and runs on. -/
theorem step_store {s : State} {n : Nibble} (hr : s.running = true) (h : s.fetchInstr = .store n) :
    step s = .next (s.fetched.writeCell (cellAddress n) s.acc) := by
  rw [step_of_running hr, h]
  exact congrArg Host.Outcome.next (endOfPass_of_running hr)

/-- A fetch right after a write to the cell at PC decodes the byte written; the byte after it is as it was. -/
theorem fetchInstr_writeCell_pc (s : State) (v : Byte) :
    (s.writeCell s.pc v).fetchInstr = decodeBytes s.cfg.ext15 v (s.mem.read (s.pc + 1#8)) := by
  have hne : s.pc + 1#8 ≠ s.pc := by simp
  simp [State.fetchInstr, read_write_of_ne _ _ hne]

/-- Settles O49: the state after the store is the fetched one with ACC written to the cell at its PC. -/
theorem nextFetchSeesTheStore : Obligations.NextFetchSeesTheStore := by
  intro n s hr hbyte hn
  have hfetch : (s.fetched.writeCell (cellAddress n) s.acc).fetchInstr =
      decodeBytes s.cfg.ext15 s.acc (s.mem.read (s.pc + 2#8)) := by
    simpa [hn, BitVec.add_assoc] using fetchInstr_writeCell_pc s.fetched s.acc
  refine ⟨_, step_store hr (fetchInstr_store hbyte), rfl, rfl, hfetch, ?_⟩
  rw [← hfetch]
  exact step_of_running hr

end Sys2Proof.Machine
end

section
/-! SUPPORT. Which cells a handler can write (20_memory.md R30, R32). -/

namespace Sys2Proof.Machine

/-- A 4-bit field names one of the cells 0 to 15. -/
@[simp] theorem toNat_cellAddress (n : Nibble) : (cellAddress n).toNat = n.toNat := by
  have := n.isLt
  simp only [cellAddress, BitVec.toNat_setWidth]
  omega

@[simp] theorem length_nonceBytes (order : NonceOrder) (n : Nonce) : (nonceBytes order n).length = 4 := by
  cases order <;> rfl

theorem eq_of_read_write_ne {m : Memory} {a b v : Byte} (h : (m.write a v).read b ≠ m.read b) : b = a :=
  Not.imp_symm (read_write_of_ne m v) h

/-- A run of writes changes only cells it reaches. -/
theorem exists_of_read_writeRange_ne {m : Memory} {a b : Byte} {vs : List Byte}
    (h : (m.writeRange a vs).read b ≠ m.read b) : ∃ j < vs.length, b = a + BitVec.ofNat 8 j := by
  by_contra hb
  exact h (read_writeRange_of_ne vs m a b fun i hi e => hb ⟨i, hi, e⟩)

/-- Instruction `i` can write cell `a`: STORE and NET_RECV the cell their operand names, POW that one and the three after
it. -/
inductive WritesCell (a : Byte) : Instr → Prop
  | store (n : Nibble) : a = cellAddress n → WritesCell a (.store n)
  | netRecv (n : Nibble) : a = cellAddress n → WritesCell a (.netRecv n)
  | pow (n : Nibble) (j : Nat) : j < 4 → a = cellAddress n + BitVec.ofNat 8 j → WritesCell a (.pow n)

/-- A handler changes only cells its instruction can write. -/
theorem HandlerEffect.writesCell {s u : State} {i : Instr} {a : Byte} (h : HandlerEffect s i u)
    (ha : u.mem.read a ≠ s.mem.read a) : WritesCell a i := by
  cases h with
  | store n => exact .store n (eq_of_read_write_ne ha)
  | recvByte n => exact .netRecv n (eq_of_read_write_ne ha)
  | powFound n r =>
    obtain ⟨j, hj, rfl⟩ := exists_of_read_writeRange_ne ha
    exact .pow n j (by simpa using hj) rfl
  | _ => exact absurd rfl ha

/-- The writers, told from the opcode and the configuration, with their cells. -/
theorem WritesCell.bounds {a : Byte} {i : Instr} {e : Ext15} (h : WritesCell a i) (hi : i.wellFormed e = true) :
    a.toNat ≤ 18 ∧ ((i.opcode.toNat = 8 ∧ a.toNat ≤ 15) ∨ (i.opcode.toNat = 15 ∧ e = .netRecv ∧ a.toNat ≤ 15) ∨
      (i.opcode.toNat = 15 ∧ e = .pow)) := by
  cases h with
  | store n ha =>
    have : a.toNat ≤ 15 := by rw [ha, toNat_cellAddress]; omega
    exact ⟨by omega, .inl ⟨rfl, this⟩⟩
  | netRecv n ha =>
    have : a.toNat ≤ 15 := by rw [ha, toNat_cellAddress]; omega
    exact ⟨by omega, .inr (.inl ⟨rfl, by simpa [Instr.wellFormed] using hi, this⟩)⟩
  | pow n j hj ha =>
    have : a.toNat ≤ 18 := by
      rw [ha, BitVec.toNat_add, toNat_cellAddress, BitVec.toNat_ofNat]
      omega
    exact ⟨this, .inr (.inr ⟨rfl, by simpa [Instr.wellFormed] using hi⟩)⟩

/-- Settles O56: the fetch and the end of the pass leave memory, and the fetched instruction is one the configuration
has. -/
theorem cellsAreWrittenByTheListedOnly : Obligations.CellsAreWrittenByTheListedOnly := by
  intro s t a hstep ha
  obtain ⟨-, u, hu, rfl⟩ := step_effect hstep
  rw [endOfPass_mem] at ha
  simpa only [fetchInstr_opcode, toNat_opcodeField] using (hu.writesCell ha).bounds (fetchInstr_wellFormed s)

end Sys2Proof.Machine
end

section
/-! SUPPORT. Relations kept along a run, and the order of the streams (20_memory.md R39). -/

namespace Sys2Proof.Machine

/-- A reflexive relation that a step can be put in front of relates the ends of every run. -/
theorem rel_of_run {R : State → State → Prop} (refl : ∀ s, R s s)
    (head : ∀ {s u t}, step s = .next u → R u t → R s t) {k : Nat} {s t : State} (h : run k s = .next t) : R s t := by
  induction k generalizing s with
  | zero =>
    rw [run_zero] at h
    cases h
    exact refl _
  | succ k ih =>
    obtain ⟨u, hstep, hrun⟩ := (run_succ_eq_next_iff k s t).mp h
    exact head hstep (ih hrun)

/-- The streams of `t` continue those of `s`: outputs grow at the end, inputs are taken from the front, tokens taken are
counted, the count of bytes received does not fall. A field left out is a stream that `t` leaves as it is. -/
structure State.StreamsContinue (s t : State) : Prop where
  consoleOut : s.consoleOut <+: t.consoleOut := by exact List.prefix_rfl
  sent : s.sent <+: t.sent := by exact List.prefix_rfl
  consoleIn : t.consoleIn <:+ s.consoleIn := by exact List.suffix_rfl
  tokens : s.consoleIn.length + s.consoleTaken = t.consoleIn.length + t.consoleTaken := by rfl
  sendAnswers : t.sendAnswers <:+ s.sendAnswers := by exact List.suffix_rfl
  recvAnswers : t.recvAnswers <:+ s.recvAnswers := by exact List.suffix_rfl
  received : s.received ≤ t.received := by exact Nat.le_refl _

theorem State.StreamsContinue.refl (s : State) : s.StreamsContinue s := {}

theorem State.StreamsContinue.trans {s u t : State} (h : s.StreamsContinue u) (h' : u.StreamsContinue t) :
    s.StreamsContinue t where
  consoleOut := h.consoleOut.trans h'.consoleOut
  sent := h.sent.trans h'.sent
  consoleIn := h'.consoleIn.trans h.consoleIn
  tokens := h.tokens.trans h'.tokens
  sendAnswers := h'.sendAnswers.trans h.sendAnswers
  recvAnswers := h'.recvAnswers.trans h.recvAnswers
  received := h.received.trans h'.received

/-- One token taken from the front and counted. -/
theorem length_add_taken {x : ConsoleToken} {tokens rest : List ConsoleToken} (h : tokens = x :: rest) (k : Nat) :
    tokens.length + k = rest.length + (k + 1) := by
  rw [h, List.length_cons]
  omega

/-- Every handler continues the streams: each takes or adds at most one item of one stream. -/
theorem HandlerEffect.streamsContinue {s u : State} {i : Instr} (h : HandlerEffect s i u) : s.StreamsContinue u := by
  cases h with
  | inputInt n k rest hin => exact { consoleIn := ⟨[.int k], hin.symm⟩, tokens := length_add_taken hin _ }
  | inputBad n rest hin => exact { consoleIn := ⟨[.bad], hin.symm⟩, tokens := length_add_taken hin _ }
  | output => exact { consoleOut := List.prefix_append _ _ }
  | sendOk n rest _ ha => exact { sent := List.prefix_append _ _, sendAnswers := ⟨[.ok], ha.symm⟩ }
  | sendFail n rest _ ha => exact { sendAnswers := ⟨[.fail], ha.symm⟩ }
  | recvByte n b rest _ ha => exact { recvAnswers := ⟨[.byte b], ha.symm⟩, received := Nat.le_succ _ }
  | recvFail n rest _ ha => exact { recvAnswers := ⟨[.fail], ha.symm⟩ }
  | _ => exact {}

theorem streamsContinue_fetched (s : State) : s.StreamsContinue s.fetched := {}

/-- The end of a pass leaves every stream. -/
theorem streamsContinue_endOfPass (s : State) : s.StreamsContinue s.endOfPass := by
  constructor <;> simp

/-- Every step continues the streams. -/
theorem streamsContinue_step {s t : State} (h : step s = .next t) : s.StreamsContinue t := by
  obtain ⟨-, u, hu, rfl⟩ := step_effect h
  exact ((streamsContinue_fetched s).trans hu.streamsContinue).trans (streamsContinue_endOfPass u)

/-- Every run continues the streams. -/
theorem streamsContinue_run {k : Nat} {s t : State} (h : run k s = .next t) : s.StreamsContinue t :=
  rel_of_run (R := State.StreamsContinue) .refl (fun hstep hrest => (streamsContinue_step hstep).trans hrest) h

/-- Settles O57: every step continues the streams, and so does a run. -/
theorem streamsKeepTheirOrder : Obligations.StreamsKeepTheirOrder := by
  intro k s t hrun
  obtain ⟨hout, hsent, hin, htokens, hsend, hrecv, hcount⟩ := streamsContinue_run hrun
  exact ⟨hout, hsent, hin, htokens, hsend, hrecv, hcount⟩

end Sys2Proof.Machine
end

section
/-! SUPPORT. Encoding and decoding are inverse to each other (30_encoding.md R45 to R58), the decoder's field split and
dispatch, and the ignored operand field (R53). -/

namespace Sys2Proof

/-- A byte list decodes by its first byte alone, or with the byte after it where the opcode's length is two; the bytes
after those are the rest. -/
theorem decode_eq_ok {e : Ext15} {bytes rest : List Byte} {i : Instr} (h : decode e bytes = .ok (i, rest)) :
    ∃ ir off, i = decodeBytes e ir off ∧
      bytes = ir :: (if lengthOfOpcode (opcodeField ir) = 2 then [off] else []) ++ rest := by
  cases bytes with
  | nil => cases h
  | cons ir tl =>
    by_cases hlen : lengthOfOpcode (opcodeField ir) = 2
    · cases tl with
      | nil => simp [decode, hlen] at h
      | cons off tl =>
        obtain ⟨rfl, rfl⟩ : decodeBytes e ir off = i ∧ tl = rest := by simpa [decode, hlen] using h
        exact ⟨ir, off, rfl, by simp [hlen]⟩
    · obtain ⟨rfl, rfl⟩ : decodeBytes e ir 0#8 = i ∧ tl = rest := by simpa [decode, hlen] using h
      exact ⟨ir, 0#8, rfl, by simp [hlen]⟩

/-- The encoder writes back the first byte decoded, and the byte after it where the opcode's length is two. -/
theorem encode_decodeBytes (e : Ext15) (ir off : Byte) :
    encode (decodeBytes e ir off) = ir :: if lengthOfOpcode (opcodeField ir) = 2 then [off] else [] := by
  obtain ⟨-, hopc, hopd, htail⟩ := dispatch_fields e (opcodeField ir) (operandField ir) off
  rw [encode, Instr.firstByte, decodeBytes, hopc, hopd, htail, packFields_fields]

/-- Settles O5: a decoded instruction was dispatched from a byte's two fields, which the encoder packs again. -/
theorem decodeThenEncode : Obligations.DecodeThenEncode := by
  intro e bytes i rest h
  obtain ⟨ir, off, rfl, rfl⟩ := decode_eq_ok h
  exact ⟨(dispatch_fields _ _ _ _).1, by rw [encode_decodeBytes]⟩

/-- Dispatch on an instruction's own fields gives it back; one without an offset byte takes any for it. -/
theorem dispatch_own_fields {e : Ext15} {i : Instr} (h : i.wellFormed e = true) {off : Byte}
    (hoff : ∀ b ∈ i.tail, b = off) : dispatch e i.opcode i.operand off = i := by
  cases i with
  | netSend | netRecv | pow | unknown =>
    obtain rfl := eq_of_beq h
    rfl
  | jz n b | jnz n b =>
    obtain rfl := hoff b List.mem_cons_self
    rfl
  | _ => rfl

/-- The decoder on an instruction's first byte, with its offset byte where it has one. -/
theorem decodeBytes_firstByte {e : Ext15} {i : Instr} (h : i.wellFormed e = true) {off : Byte}
    (hoff : ∀ b ∈ i.tail, b = off) : decodeBytes e i.firstByte off = i := by
  rw [decodeBytes, Instr.firstByte, opcodeField_packFields, operandField_packFields, dispatch_own_fields h hoff]

/-- An instruction has an offset byte exactly where its opcode's length is two (30_encoding.md R49). -/
theorem tail_cases (i : Instr) :
    (lengthOfOpcode i.opcode = 2 ∧ ∃ off, i.tail = [off]) ∨ (lengthOfOpcode i.opcode ≠ 2 ∧ i.tail = []) := by
  cases i with
  | jz n off | jnz n off => exact .inl ⟨rfl, off, rfl⟩
  | _ => exact .inr ⟨by simp [lengthOfOpcode, Instr.opcode], rfl⟩

/-- Settles O4: by the number of bytes of the encoding. -/
theorem encodeThenDecode : Obligations.EncodeThenDecode := by
  intro e i rest h
  have hopc : opcodeField i.firstByte = i.opcode := opcodeField_packFields _ _
  rcases tail_cases i with ⟨hlen, off, htail⟩ | ⟨hlen, htail⟩
  · have hi : decodeBytes e i.firstByte off = i := decodeBytes_firstByte h (by simp [htail])
    simp [encode, htail, decode, hopc, hlen, hi]
  · have hi : decodeBytes e i.firstByte 0#8 = i := decodeBytes_firstByte h (by simp [htail])
    simp [encode, htail, decode, hopc, hlen, hi]

/-- The operand field is the byte's lower half (30_encoding.md R46). -/
theorem toNat_operandField (ir : Byte) : (operandField ir).toNat = ir.toNat % 16 := by
  simp [operandField]

/-- Settles O1: the two halves, and division with remainder. -/
theorem fieldSplitOfEveryByte : Obligations.FieldSplitOfEveryByte := by
  intro ir
  rw [Machine.toNat_opcodeField, toNat_operandField]
  exact ⟨rfl, rfl, (Nat.div_add_mod _ _).symm⟩

/-- Settles O2: the byte is given by its two fields, and dispatch is on them. -/
theorem dispatchByOpcodeField : Obligations.DispatchByOpcodeField := fun e n off =>
  have hdispatch (opc : Nibble) := decodeBytes_ofNat e opc n off
  ⟨hdispatch 0, hdispatch 1, hdispatch 2, hdispatch 3, hdispatch 4, hdispatch 5, hdispatch 6, hdispatch 7,
    hdispatch 8, hdispatch 9, hdispatch 10, hdispatch 11, hdispatch 12, hdispatch 13, hdispatch 14,
    (hdispatch 15).trans (by cases e <;> rfl)⟩

/-- Settles O3, by running the decoder on the thirteen words. -/
theorem writtenOutWordsDecode : Obligations.WrittenOutWordsDecode :=
  ⟨rfl, rfl, rfl, rfl, rfl, rfl, rfl, rfl, rfl, rfl, rfl, rfl, rfl⟩

/-- Settles O6: none of the six handlers uses its operand field. -/
theorem ignoredOperandFieldHasNoEffect : Obligations.IgnoredOperandFieldHasNoEffect :=
  fun _ _ _ _ => ⟨rfl, rfl, rfl, rfl, rfl, rfl⟩

end Sys2Proof
end

section
/-! SUPPORT. What no run changes: the configuration, and a RUNNING of 0 (30_encoding.md R51, 10_state.md R14). -/

namespace Sys2Proof.Machine

/-- A step keeps the configuration: neither the fetch, nor a handler, nor the end of the pass writes it. -/
theorem cfg_of_step {s t : State} (h : step s = .next t) : t.cfg = s.cfg := by
  obtain ⟨-, u, hu, rfl⟩ := step_effect h
  rw [endOfPass_cfg, hu.cfg_eq, fetched_cfg]

/-- Settles O54: a step keeps the configuration and starts with RUNNING = 1, so both hold along a run. -/
theorem runKeepsTheConfiguration : Obligations.RunKeepsTheConfiguration := fun _ _ _ hrun =>
  rel_of_run (R := fun s t => t.cfg = s.cfg ∧ (t.running = true → s.running = true)) (fun _ => ⟨rfl, id⟩)
    (fun hstep ⟨hcfg, _⟩ => ⟨hcfg.trans (cfg_of_step hstep), fun _ => (step_effect hstep).1⟩) hrun

end Sys2Proof.Machine
end

section
/-! SUPPORT. The encoding of an instruction as numbers, what an ALU instruction answers, and the arithmetic instructions
ADD, SUB, MUL and DIV (30_encoding.md R46, 40_arithmetic.md R60 to R65). -/

namespace Sys2Proof

/-- Every instruction is encoded as the byte `16 * opc + opd`, with its offset byte after it where it has one. -/
theorem encodedAs_ofNat_cons_tail (i : Instr) :
    i.EncodedAs (BitVec.ofNat 8 (16 * i.opcode.toNat + i.operand.toNat) :: i.tail) := by
  rw [← packFields_eq_ofNat]
  exact ⟨rfl, fun e hwf rest => encodeThenDecode e i rest hwf⟩

end Sys2Proof

namespace Sys2Proof.Machine

/-- The operand cell is the cell whose address is the operand field's number. -/
theorem read_ofNat_toNat (s : State) (n : Nibble) : s.mem.read (BitVec.ofNat 8 n.toNat) = s.operandCell n := by
  rw [BitVec.ofNat_toNat, State.operandCell, cellAddress]

/-- ACC after an ALU operation: the result, or what it was where there is none. -/
theorem aluInto_acc (s : State) (op : AluOp) (n : Nibble) :
    (s.aluInto op n).acc = (alu op s.acc (s.operandCell n)).getD s.acc := by
  rw [aluInto_eq_setAcc, setAcc_acc]

/-- The frame of an ALU operation. -/
theorem aluInto_frame (s : State) (op : AluOp) (n : Nibble) :
    s.aluInto op n = { s with acc := (s.aluInto op n).acc } := by
  rw [aluInto_acc, aluInto_eq_setAcc, State.setAcc]

/-- Byte subtraction is integer subtraction mod 256. -/
theorem intCast_toNat_sub (a b : Byte) : ((a - b).toNat : Int) = ((a.toNat : Int) - (b.toNat : Int)) % 256 := by
  have ha := a.isLt
  have hb := b.isLt
  rw [BitVec.toNat_sub]
  omega

/-- The ALU's quotient by a nonzero byte is that of the numbers: it is no greater than the dividend, so it fits a byte. -/
theorem toNat_alu_div {b : Byte} (a : Byte) (hb : b ≠ 0#8) : ((alu .div a b).getD a).toNat = a.toNat / b.toNat := by
  have hfits : a.toNat / b.toNat < 256 := (Nat.div_le_self _ _).trans_lt a.isLt
  simpa [alu, hb] using hfits

/-- Settles O12: byte addition is addition mod 256. -/
theorem addWrapsModulo256 : Obligations.AddWrapsModulo256 := by
  intro n s
  refine ⟨encodedAs_ofNat_cons_tail (.add n), s.aluInto .add n, rfl, aluInto_frame s .add n, ?_⟩
  rw [aluInto_acc, read_ofNat_toNat]
  exact BitVec.toNat_add _ _

/-- Settles O13: byte subtraction is subtraction mod 256, with no borrow. -/
theorem subWrapsModulo256 : Obligations.SubWrapsModulo256 := by
  intro n s
  refine ⟨encodedAs_ofNat_cons_tail (.sub n), s.aluInto .sub n, rfl, aluInto_frame s .sub n, ?_⟩
  rw [aluInto_acc, read_ofNat_toNat]
  exact intCast_toNat_sub _ _

/-- Settles O14: byte multiplication keeps the product mod 256. -/
theorem mulKeepsTheLowByte : Obligations.MulKeepsTheLowByte := by
  intro n s
  refine ⟨encodedAs_ofNat_cons_tail (.mul n), s.aluInto .mul n, rfl, aluInto_frame s .mul n, ?_⟩
  rw [aluInto_acc, read_ofNat_toNat]
  exact BitVec.toNat_mul _ _

/-- Settles O15: division by zero alone has no result, and any other quotient fits a byte. -/
theorem divGivesTheUnsignedQuotient : Obligations.DivGivesTheUnsignedQuotient := by
  intro n s
  refine ⟨encodedAs_ofNat_cons_tail (.div n), s.aluInto .div n, rfl, aluInto_frame s .div n, ?_⟩
  rw [aluInto_acc, read_ofNat_toNat]
  constructor
  · intro hzero
    rw [(alu_eq_none_iff _ _ _).mpr ⟨rfl, hzero⟩, Option.getD_none]
  · exact toNat_alu_div s.acc

end Sys2Proof.Machine
end

section
/-! SUPPORT. The logic instructions AND, OR and XOR: the ALU's result bit by bit (41_logic.md R70 to R73). -/

namespace Sys2Proof.Machine

/-- An instruction that runs an ALU operation computing each bit of its result by `f` writes those bits of ACC and the
operand cell to ACC, and nothing else. -/
theorem exec_bitwise {i : Instr} {s : State} {op : AluOp} {n : Nibble} {f : Bool → Bool → Bool}
    (hexec : exec i s = .next (s.aluInto op n))
    (hbits : ∀ (a b : Byte) (k : Nat), ((alu op a b).getD a).getLsbD k = f (a.getLsbD k) (b.getLsbD k)) :
    ∃ t, exec i s = .next t ∧ t = { s with acc := t.acc } ∧
      ∀ k < 8, t.acc.getLsbD k = f (s.acc.getLsbD k) ((s.mem.read (BitVec.ofNat 8 n.toNat)).getLsbD k) := by
  refine ⟨s.aluInto op n, hexec, aluInto_frame s op n, fun k _ => ?_⟩
  rw [aluInto_acc, read_ofNat_toNat]
  exact hbits _ _ k

/-- Settles O17: each bit of the ALU's result is the AND of the two bits. -/
theorem andIsBitwise : Obligations.AndIsBitwise := fun n _ =>
  ⟨encodedAs_ofNat_cons_tail (.and n), exec_bitwise (op := .and) (f := and) rfl fun _ _ _ => BitVec.getLsbD_and⟩

/-- Settles O18: each bit of the ALU's result is the OR of the two bits. -/
theorem orIsBitwise : Obligations.OrIsBitwise := fun n _ =>
  ⟨encodedAs_ofNat_cons_tail (.or n), exec_bitwise (op := .or) (f := or) rfl fun _ _ _ => BitVec.getLsbD_or⟩

/-- Settles O19: each bit of the ALU's result is the exclusive OR of the two bits. -/
theorem xorIsBitwise : Obligations.XorIsBitwise := fun n _ =>
  ⟨encodedAs_ofNat_cons_tail (.xor n), exec_bitwise (op := .xor) (f := xor) rfl fun _ _ _ => BitVec.getLsbD_xor⟩

end Sys2Proof.Machine
end

section
/-! SUPPORT. LOAD and STORE, alone and one after the other (42_data_transfer.md R76 to R78). -/

namespace Sys2Proof.Machine

/-- LOAD writes the operand cell to ACC: the ALU's pass always has a result (40_arithmetic.md R60). -/
theorem exec_load (n : Nibble) (s : State) : exec (.load n) s = .next (s.setAcc (s.operandCell n)) :=
  congrArg Host.Outcome.next (aluInto_eq_setAcc s .pass n)

/-- Settles O20: the operand cell is the cell at the operand's number. -/
theorem loadReadsTheCell : Obligations.LoadReadsTheCell := by
  intro n s
  refine ⟨encodedAs_ofNat_cons_tail (.load n), ?_⟩
  rw [exec_load, read_ofNat_toNat, State.setAcc]

/-- Settles O21: the handler is one write of memory, so the laws of a read after a write say what the cells hold. -/
theorem storeWritesOneCell : Obligations.StoreWritesOneCell := by
  intro n s
  refine ⟨encodedAs_ofNat_cons_tail (.store n), toNat_cellAddress n, s.writeCell (cellAddress n) s.acc, rfl, rfl, ?_⟩
  rintro _ rfl
  exact ⟨read_write_self _ _ _, fun _ => read_write_of_ne _ _⟩

/-- A byte 0x70 to 0x7F at PC is fetched as a LOAD. -/
theorem fetchInstr_load {s : State} {n : Nibble} (h : s.mem.read s.pc = BitVec.ofNat 8 (0x70 + n.toNat)) :
    s.fetchInstr = .load n := by
  rw [State.fetchInstr, h]
  exact decodeBytes_ofNat s.cfg.ext15 7#4 n _

/-- A running engine that fetches a LOAD writes the cell to ACC, goes to the next address and runs on. -/
theorem step_load {s : State} {n : Nibble} (hr : s.running = true) (h : s.fetchInstr = .load n) :
    step s = .next (s.fetched.setAcc (s.operandCell n)) := by
  rw [step_of_running hr, h, exec_load]
  exact congrArg Host.Outcome.next (endOfPass_of_running hr)

/-- A store to another cell than the one after PC leaves the LOAD that stands there to be fetched next. -/
theorem fetchInstr_after_store {s : State} {n : Nibble} {a : Byte} (v : Byte)
    (h : s.mem.read (s.pc + 1#8) = BitVec.ofNat 8 (0x70 + n.toNat)) (ha : a ≠ s.pc + 1#8) :
    (s.fetched.writeCell a v).fetchInstr = .load n :=
  fetchInstr_load ((read_write_of_ne s.mem v ha.symm).trans h)

/-- Settles O22: the STORE leaves the LOAD, which reads back the cell just written. -/
theorem storeThenLoadRoundTrip : Obligations.StoreThenLoadRoundTrip := by
  intro o s hr hstore hload ho
  let u := s.fetched.writeCell (cellAddress o) s.acc
  have hfirst : step s = .next u := step_store hr (fetchInstr_store hstore)
  have hsecond : step u = .next (u.fetched.setAcc (u.operandCell o)) :=
    step_load hr (fetchInstr_after_store s.acc hload ho)
  have hcell : u.mem.read (cellAddress o) = s.acc := read_write_self _ _ _
  have hrun : run 2 s = .next (u.fetched.setAcc (u.operandCell o)) :=
    (run_succ_eq_next_iff 1 s _).mpr ⟨u, hfirst, (run_succ_eq_next_iff 0 u _).mpr ⟨_, hsecond, run_zero _⟩⟩
  exact ⟨_, hrun, hcell, hcell, BitVec.add_assoc _ _ _, hr, fun _ => read_write_of_ne _ _⟩

end Sys2Proof.Machine
end

section
/-! SUPPORT. Where a handler and a step put PC: JUMP, the two arms of JZ and JNZ, and the increment of the fetch
(43_control_flow.md R80 to R84). -/

namespace Sys2Proof.Machine

@[simp] theorem toNat_immediate (n : Nibble) : (immediate n).toNat = n.toNat := toNat_cellAddress n

theorem jbase_toInt (j : JBase) : j.toInt = if j = .one then 1 else 0 := by
  cases j <;> rfl

/-- The spec's `sint8` is the two's complement value of the byte (30_encoding.md R48). -/
theorem sint8_eq_toInt (off : Byte) : sint8 off = off.toInt := by
  rw [sint8, BitVec.toInt]
  split_ifs <;> omega

/-- `n mod 256` is a byte, so no more is lost. -/
theorem toNat_byteOfInt (k : Int) : ((byteOfInt k).toNat : Int) = k % 256 := by
  rw [byteOfInt, BitVec.toNat_ofInt]
  exact Int.toNat_of_nonneg (Int.emod_nonneg k (by decide))

theorem accIsZero_iff (s : State) : s.accIsZero = true ↔ s.acc = 0#8 := beq_iff_eq

theorem not_accIsZero_iff (s : State) : (!s.accIsZero) = true ↔ s.acc ≠ 0#8 := bne_iff_ne

theorem fetched_accIsZero (s : State) : s.fetched.accIsZero = s.accIsZero := rfl

/-- A taken branch adds JBASE and the signed offset to PC (43_control_flow.md R83). -/
theorem toNat_branch_pc_taken (s : State) (off : Byte) :
    ((s.branch true off).pc.toNat : Int) = ((s.pc.toNat : Int) + s.cfg.jbase.toInt + off.toInt) % 256 := by
  rw [← sint8_eq_toInt]
  exact toNat_byteOfInt _

/-- An untaken branch skips the offset byte (43_control_flow.md R81). -/
theorem toNat_branch_pc_untaken (s : State) (off : Byte) : (s.branch false off).pc.toNat = (s.pc.toNat + 1) % 256 :=
  BitVec.toNat_add _ _

/-- Settles O23: the target is the operand field as a byte. -/
theorem jumpSetsPc : Obligations.JumpSetsPc := fun n s =>
  ⟨encodedAs_ofNat_cons_tail (.jump n), s.setPc (immediate n), rfl, rfl, toNat_immediate n⟩

/-- Settles O24: ACC = 0 is the taken arm. -/
theorem jzBranchesOnZero : Obligations.JzBranchesOnZero := by
  intro n off s
  refine ⟨encodedAs_ofNat_cons_tail (.jz n off), s.branch s.accIsZero off, rfl, rfl, fun hacc => ?_, fun hacc => ?_⟩
  · rw [(accIsZero_iff s).mpr hacc, toNat_branch_pc_taken, jbase_toInt]
  · rw [Bool.eq_false_iff.mpr (mt (accIsZero_iff s).mp hacc), toNat_branch_pc_untaken]

/-- Settles O25: ACC = 0 is the untaken arm. -/
theorem jnzBranchesOnNonzero : Obligations.JnzBranchesOnNonzero := by
  intro n off s
  refine ⟨encodedAs_ofNat_cons_tail (.jnz n off), s.branch (!s.accIsZero) off, rfl, rfl, fun hacc => ?_,
    fun hacc => ?_⟩
  · rw [(not_accIsZero_iff s).mpr hacc, toNat_branch_pc_taken, jbase_toInt]
  · rw [(accIsZero_iff s).mpr hacc, Bool.not_true, toNat_branch_pc_untaken]

/-- PC1 = (PC0 + 1) mod 256 (43_control_flow.md R80). -/
theorem toNat_fetched_pc (s : State) : (s.fetched.pc.toNat : Int) = ((s.pc.toNat : Int) + 1) % 256 := by
  rw [fetched_pc, BitVec.toNat_add]
  rfl

/-- Both arms of a branch after the fetch, counted from the address of its first byte. -/
theorem toNat_fetched_branch_pc (s : State) (taken : Bool) (off : Byte) :
    ((s.fetched.branch taken off).pc.toNat : Int) =
      if taken then ((s.pc.toNat : Int) + 1 + s.cfg.jbase.toInt + off.toInt) % 256
      else ((s.pc.toNat : Int) + 2) % 256 := by
  have hpc := toNat_fetched_pc s
  cases taken with
  | true =>
    have htaken := toNat_branch_pc_taken s.fetched off
    rw [fetched_cfg] at htaken
    rw [if_pos rfl]
    omega
  | false =>
    have huntaken := toNat_branch_pc_untaken s.fetched off
    rw [if_neg Bool.false_ne_true]
    omega

/-- Settles O45, by the effects a handler can have: the four waits leave the state, JUMP and the branches write PC, and
every other effect leaves the PC of the fetch. -/
theorem pcAfterAStep : Obligations.PcAfterAStep := by
  intro s t hstep
  obtain ⟨hr, u, hu, rfl⟩ := step_effect hstep
  have hopcode : s.fetchInstr.opcode.toNat = (s.mem.read s.pc).toNat / 16 := by
    rw [fetchInstr_opcode, toNat_opcodeField]
  have hwait : s.fetched.notCompleted.endOfPass = s := by
    rw [fetched_notCompleted, endOfPass_of_running hr]
  rw [← hopcode, endOfPass_pc]
  generalize s.fetchInstr = i at hu
  cases hu with
  | inputWait => exact .inl ⟨hwait, .inl rfl⟩
  | sendWait | recvWait | powWait => exact .inl ⟨hwait, .inr rfl⟩
  | jump n => exact .inr (congrArg Nat.cast (toNat_immediate n))
  | jz n off =>
    right
    simpa only [fetched_accIsZero, accIsZero_iff] using toNat_fetched_branch_pc s s.accIsZero off
  | jnz n off =>
    right
    simpa only [fetched_accIsZero, not_accIsZero_iff] using toNat_fetched_branch_pc s (!s.accIsZero) off
  | accOnly _ _ halu =>
    right
    cases i with
    | jump | jz | jnz => simp [Instr.opcode] at halu
    | _ => exact toNat_fetched_pc s
  | _ => exact .inr (toNat_fetched_pc s)

end Sys2Proof.Machine
end

section
/-! SUPPORT. The step as the decoded instruction's handler, and the instructions that stop the loop: HALT and an unknown
instruction (43_control_flow.md R80, R85, R86). -/

namespace Sys2Proof.Machine

/-- The two bytes from PC on. -/
theorem readRange_two (m : Memory) (a : Byte) : m.readRange a 2 = [m.read a, m.read (a + 1#8)] := by
  simp [readRange_succ]

/-- Where the bytes at PC decode to an instruction, the fetch yields that instruction. -/
theorem fetchInstr_of_decode {s : State} {i : Instr} {rest : List Byte}
    (h : decode s.cfg.ext15 (s.mem.readRange s.pc 2) = .ok (i, rest)) : s.fetchInstr = i := by
  obtain ⟨hwf, hbytes⟩ := decodeThenEncode _ _ _ _ h
  rw [readRange_two, encode, List.cons_append, List.cons.injEq] at hbytes
  obtain ⟨hfirst, htail⟩ := hbytes
  rw [State.fetchInstr, ← hfirst]
  refine decodeBytes_firstByte hwf fun b hb => ?_
  have hmem : b ∈ i.tail ++ rest := List.mem_append_left rest hb
  rwa [htail, List.mem_singleton] at hmem

/-- A step of a running engine whose handler stopped the loop closes the channel, where there is one
(60_exceptions.md R125). -/
theorem step_of_stopping {s t : State} (hr : s.running = true) (h : exec s.fetchInstr s.fetched = .next t)
    (ht : t.running = false) : step s = .next t.closeChannel := by
  rw [step_of_running hr, h, finishPass, endOfPass_of_stopped ht]

/-- Settles O44: the step is the handler of the fetched instruction, with the end of the pass done. -/
theorem stepRunsTheDecodedInstruction : Obligations.StepRunsTheDecodedInstruction := by
  intro s i rest hr hdecode
  obtain rfl := fetchInstr_of_decode hdecode
  have hstep : step s = finishPass (exec s.fetchInstr { s with pc := s.pc + 1#8 }) := step_of_running hr
  refine ⟨rfl, fun t h ht => ?_, fun t h ht => ?_, fun f h => ?_, fun f h => ?_⟩
  · rw [hstep, h, finishPass, endOfPass_of_running ht]
  · rw [step_of_stopping hr h ht, closeChannel_eq]
  · rw [hstep, h, finishPass]
  · rw [hstep, h, finishPass]

/-- A state in which the loop has stopped has no next step (60_exceptions.md R128). -/
theorem step_ne_next_of_stopped {s : State} (h : s.running = false) (u : State) : step s ≠ .next u := by
  rw [step_of_stopped h]
  exact nofun

/-- Settles O26: the step stops the loop and closes the channel. -/
theorem haltEndsTheRun : Obligations.HaltEndsTheRun := by
  intro n s
  refine ⟨encodedAs_ofNat_cons_tail (.halt n), rfl, fun hr hfetch => ?_⟩
  have hexec : exec s.fetchInstr s.fetched = .next (s.fetched.raiseStop .halt) := by
    rw [hfetch]
    rfl
  refine ⟨_, step_of_stopping hr hexec rfl, ?_, fun hc => ?_, fun hc => ?_, step_ne_next_of_stopped ?_⟩
  · rw [closeChannel_eq]
    rfl
  · simp [hc]
  · simp [hc]
  · simp

/-- A byte 0xF0 to 0xFF at PC is fetched as the operation the configuration binds to slot 15. -/
theorem fetchInstr_slot15 {s : State} {n : Nibble} (h : s.mem.read s.pc = BitVec.ofNat 8 (0xF0 + n.toNat)) :
    s.fetchInstr = slot15 s.cfg.ext15 n := by
  rw [State.fetchInstr, h]
  exact decodeBytes_ofNat s.cfg.ext15 15#4 n _

/-- Settles O27: with nothing bound to slot 15, the step stops the loop and leaves ACC and memory. -/
theorem unknownInstructionEndsTheRun : Obligations.UnknownInstructionEndsTheRun := by
  intro n s
  refine ⟨rfl, fun hr hext hbyte => ?_⟩
  have hexec : exec s.fetchInstr s.fetched = .next (s.fetched.raiseStop .unknownInstruction) := by
    rw [fetchInstr_slot15 hbyte, hext]
    rfl
  refine ⟨_, step_of_stopping hr hexec rfl, ?_, ?_, ?_, ?_, ?_, step_ne_next_of_stopped ?_⟩
  all_goals simp

end Sys2Proof.Machine
end

section
/-! SUPPORT. IN by the next token, and OUT with its text (44_console_io.md R91, R92). -/

namespace Sys2Proof.Machine

/-- Where an integer is next, IN takes it and writes it mod 256 to ACC. -/
theorem execIn_of_int {s : State} {k : Int} {rest : List ConsoleToken} (h : s.consoleIn = .int k :: rest)
    (n : Nibble) : execIn n s =
      .next ({ s with consoleIn := rest, consoleTaken := s.consoleTaken + 1 }.setAcc (byteOfInt k)) := by
  simpa [h] using execIn_cases n s

/-- Where a malformed token is next, IN takes it and stops. -/
theorem execIn_of_bad {s : State} {rest : List ConsoleToken} (h : s.consoleIn = .bad :: rest) (n : Nibble) :
    execIn n s =
      .next ({ s with consoleIn := rest, consoleTaken := s.consoleTaken + 1 }.raiseStop .inputError) := by
  simpa [h] using execIn_cases n s

/-- At the end of the stream IN stops, with nothing taken. -/
theorem execIn_of_ended {s : State} (h : s.consoleIn = []) (hend : s.consoleEnded = true) (n : Nibble) :
    execIn n s = .next (s.raiseStop .inputError) := by
  simpa [h, hend] using execIn_cases n s

/-- Settles O28: the token goes to ACC as a byte, which is the integer mod 256. -/
theorem inStoresTheLowByte : Obligations.InStoresTheLowByte := by
  intro n s k rest hin
  exact ⟨_, execIn_of_int hin n, toNat_byteOfInt k, rfl⟩

/-- Settles O29: the two forms of Bad. -/
theorem inStopsOnBadInput : Obligations.InStopsOnBadInput := fun n _ =>
  ⟨fun _ hin => execIn_of_bad hin n, fun hin hend => execIn_of_ended hin hend n⟩

/-- The text of a byte is its number in base 10 with the most significant digit first; 0, which has no digit there, is
written as one zero (10_state.md R20). -/
theorem decimalDigits_eq_digits (v : Byte) :
    decimalDigits v = (Nat.digits 10 v.toNat).reverse ++ if v = 0#8 then [0] else [] := by
  by_cases hzero : v = 0#8
  · subst hzero
    simp [decimalDigits]
  have hpos : v.toNat ≠ 0 := fun h => hzero (BitVec.eq_of_toNat_eq h)
  have hlt := v.isLt
  rw [if_neg hzero, List.append_nil, decimalDigits]
  split_ifs with hone htwo
  · rw [Nat.digits_of_lt 10 _ hpos hone]
    rfl
  · rw [Nat.digits_def' (by decide) (by omega), Nat.digits_of_lt 10 (v.toNat / 10) (by omega) (by omega)]
    rfl
  · rw [Nat.digits_def' (by decide) (by omega), Nat.digits_def' (by decide) (by omega), Nat.div_div_eq_div_mul,
      Nat.digits_of_lt 10 (v.toNat / (10 * 10)) (by omega) (by omega)]
    rfl

/-- An output value adds its line to the text. -/
theorem consoleLines_stdoutWrite (s : State) (v : Byte) :
    (s.stdoutWrite v).consoleLines = s.consoleLines ++ [decimalDigits v] := by
  simp [State.consoleLines, State.stdoutWrite]

/-- Settles O30: the handler is one `StdoutWrite` of ACC, whose line is the decimal digits of ACC. -/
theorem outAppendsAcc : Obligations.OutAppendsAcc := by
  intro n s
  refine ⟨encodedAs_ofNat_cons_tail (.output n), rfl, ?_⟩
  rw [← decimalDigits_eq_digits]
  exact consoleLines_stdoutWrite s s.acc

end Sys2Proof.Machine
end

section
/-! SUPPORT. NET_SEND and NET_RECV on the open channel, by the environment's next answer (45_network.md R96, R97). -/

namespace Sys2Proof.Machine

/-- Where the next send succeeds, NET_SEND takes the answer and sends the operand cell. -/
theorem execNetSend_of_ok {s : State} {rest : List SendAnswer} (hc : s.channel = .isOpen)
    (h : s.sendAnswers = .ok :: rest) (n : Nibble) :
    execNetSend n s = .next { s with sendAnswers := rest, sent := s.sent ++ [s.operandCell n] } := by
  simpa [hc, h] using execNetSend_cases n s

/-- Where the next send fails, NET_SEND takes the answer and stops, with nothing sent. -/
theorem execNetSend_of_fail {s : State} {rest : List SendAnswer} (hc : s.channel = .isOpen)
    (h : s.sendAnswers = .fail :: rest) (n : Nibble) :
    execNetSend n s = .next ({ s with sendAnswers := rest }.raiseStop .netError) := by
  simpa [hc, h] using execNetSend_cases n s

/-- Where a byte is next, NET_RECV takes it and writes it to the operand cell. -/
theorem execNetRecv_of_byte {s : State} {b : Byte} {rest : List RecvAnswer} (hc : s.channel = .isOpen)
    (h : s.recvAnswers = .byte b :: rest) (n : Nibble) : execNetRecv n s =
      .next ({ s with recvAnswers := rest, received := s.received + 1 }.writeCell (cellAddress n) b) := by
  simpa [hc, h] using execNetRecv_cases n s

/-- Where the next receive fails, NET_RECV takes the answer and stops, with no cell written. -/
theorem execNetRecv_of_fail {s : State} {rest : List RecvAnswer} (hc : s.channel = .isOpen)
    (h : s.recvAnswers = .fail :: rest) (n : Nibble) :
    execNetRecv n s = .next ({ s with recvAnswers := rest }.raiseStop .netError) := by
  simpa [hc, h] using execNetRecv_cases n s

/-- Settles O31: the two answers to a send; the byte sent is the operand cell. -/
theorem netSendSendsTheCell : Obligations.NetSendSendsTheCell := by
  intro n s rest hc
  rw [read_ofNat_toNat]
  exact ⟨fun h => execNetSend_of_ok hc h n, fun h => execNetSend_of_fail hc h n⟩

/-- Settles O32: a received byte is one write of memory, so the laws of a read after a write say what the cells hold. -/
theorem netRecvStoresTheByte : Obligations.NetRecvStoresTheByte := by
  intro n s rest hc
  refine ⟨fun b h => ⟨_, execNetRecv_of_byte hc h n, rfl, ?_⟩, fun h => execNetRecv_of_fail hc h n⟩
  rintro _ rfl
  exact ⟨read_write_self _ _ _, fun _ => read_write_of_ne _ _⟩

end Sys2Proof.Machine
end

section
/-! SUPPORT. Byte lists as big-endian numbers, the target and the comparison with it (46_proof_of_work.md R108, R109). -/

namespace Sys2Proof.Machine

@[simp] theorem bigEndian_nil : bigEndian [] = 0 := rfl

/-- A byte at the end multiplies what stands before it by 256. -/
theorem bigEndian_concat (bs : List Byte) (b : Byte) : bigEndian (bs ++ [b]) = bigEndian bs * 256 + b.toNat :=
  List.foldl_concat _ _ _ _

/-- The big-endian value is that of the reversed bytes as digits in base 256. -/
theorem bigEndian_eq_ofDigits (bs : List Byte) : bigEndian bs = Nat.ofDigits 256 (bs.reverse.map BitVec.toNat) := by
  induction bs using List.reverseRecOn with
  | nil => rfl
  | append_singleton bs b ih => simp [bigEndian_concat, ih, Nat.ofDigits_cons, Nat.add_comm, Nat.mul_comm]

/-- The value of `k` bytes has `8 * k` bits. -/
theorem bigEndian_lt (bs : List Byte) : bigEndian bs < 2 ^ (8 * bs.length) := by
  rw [bigEndian_eq_ofDigits, pow_mul]
  refine (Nat.ofDigits_lt_base_pow_length (by omega) fun v hv => ?_).trans_eq (by simp)
  obtain ⟨b, -, rfl⟩ := List.mem_map.mp hv
  exact b.isLt

/-- Byte 0 is the most significant. -/
theorem bigEndian_cons (b : Byte) (bs : List Byte) :
    bigEndian (b :: bs) = 2 ^ (8 * bs.length) * b.toNat + bigEndian bs := by
  simp [bigEndian_eq_ofDigits, Nat.ofDigits_append, Nat.add_comm, pow_mul]

/-- Two-digit numbers in base `w` compare by the upper digit first. -/
theorem mul_add_lt_mul_add_iff {w x y : Nat} (hx : x < w) (hy : y < w) (a b : Nat) :
    w * a + x < w * b + y ↔ a < b ∨ a = b ∧ x < y := by
  rcases lt_trichotomy a b with h | rfl | h
  · have := Nat.mul_le_mul_left w (Nat.succ_le_of_lt h)
    simp only [h, true_or, iff_true, Nat.mul_succ] at *
    omega
  · simp
  · have := Nat.mul_le_mul_left w (Nat.succ_le_of_lt h)
    simp only [Nat.mul_succ] at this
    omega

/-- Settles O38: by induction on the two lists; the first byte that differs decides, since what follows it weighs less. -/
theorem bigEndianOrderIsLexicographic : Obligations.BigEndianOrderIsLexicographic := by
  intro x
  induction x with
  | nil =>
    intro y hy
    obtain rfl := List.eq_nil_of_length_eq_zero hy.symm
    simp
  | cons a x ih =>
    intro y hy
    cases y with
    | nil => cases hy
    | cons b y =>
      have hlen : x.length = y.length := Nat.succ.inj hy
      rw [bigEndian_cons, bigEndian_cons, hlen, mul_add_lt_mul_add_iff (hlen ▸ bigEndian_lt x) (bigEndian_lt y), ih y hlen,
        List.cons_lex_cons_iff, BitVec.toNat_inj]

/-- A target byte has its top bits set, as many as the difficulty goes past the bytes before it, at most 8. -/
theorem toNat_targetByte (d i : Nat) : (targetByte d i).toNat = 256 - 2 ^ (8 - (d - 8 * i)) := by
  have partialByte : ∀ k < 8, 0 < k → (BitVec.ofNat 8 (0xFF00 >>> k)).toNat = 256 - 2 ^ (8 - k) := by decide
  unfold targetByte
  split
  · next h => simp [show 8 - (d - 8 * i) = 0 by omega]
  · split
    · next h h' => exact partialByte _ (by omega) (by omega)
    · next h h' => simp [show d - 8 * i = 0 by omega]

/-- The first `m` bytes of the target as a number, for any difficulty. -/
theorem bigEndian_map_targetByte (d m : Nat) :
    bigEndian ((List.range m).map (targetByte d)) = 2 ^ (8 * m) - 2 ^ (8 * m - d) := by
  induction m with
  | zero => simp
  | succ m ih =>
    rw [List.range_succ, List.map_append, List.map_singleton, bigEndian_concat, ih, toNat_targetByte,
      Nat.mul_succ 8 m, pow_add]
    rcases Nat.le_total d (8 * m) with h | h
    · rw [Nat.sub_eq_zero_of_le h, Nat.sub_add_comm h, pow_add, Nat.sub_mul]
      simp
    · have : 0 < 2 ^ (8 * m) := Nat.two_pow_pos _
      have : 2 ^ (8 - (d - 8 * m)) ≤ 2 ^ 8 := Nat.pow_le_pow_right (by omega) (by omega)
      rw [Nat.sub_eq_zero_of_le h, show 8 * m + 8 - d = 8 - (d - 8 * m) by omega]
      omega

/-- `T(d)` (46_proof_of_work.md R108), for any `d`. -/
theorem bigEndian_target (d : Nat) : bigEndian (target d) = 2 ^ 256 - 2 ^ (256 - d) := bigEndian_map_targetByte d 32

/-- Settles O36: the value of the first `m` bytes at `m = 32`. -/
theorem targetIsTopBitsSet : Obligations.TargetIsTopBitsSet := fun d _ => ⟨by simp [target], bigEndian_target d⟩

/-- A number below `2^d` other than the greatest has a bit 0 among its `d` bits. -/
theorem lt_two_pow_sub_one_iff {x d : Nat} (hx : x < 2 ^ d) : x < 2 ^ d - 1 ↔ ∃ j < d, x.testBit j = false := by
  have hones : x = 2 ^ d - 1 ↔ ∀ j < d, x.testBit j = true := by
    refine ⟨fun h j hj => by simp [h, Nat.testBit_two_pow_sub_one, hj], fun h => Nat.eq_of_testBit_eq fun j => ?_⟩
    rw [Nat.testBit_two_pow_sub_one]
    by_cases hj : j < d
    · simp [hj, h j hj]
    · simp [hj, Nat.testBit_lt_two_pow (hx.trans_le (Nat.pow_le_pow_right (by omega) (Nat.le_of_not_lt hj)))]
  have hne : x < 2 ^ d - 1 ↔ ¬ x = 2 ^ d - 1 := by omega
  rw [hne, hones]
  simp

/-- An `n`-bit number is below `d` ones then zeros exactly when one of its top `d` bits is 0. -/
theorem lt_topOnes_iff {x n d : Nat} (hx : x < 2 ^ n) (hd : d ≤ n) :
    x < 2 ^ n - 2 ^ (n - d) ↔ ∃ i < d, x.testBit (n - 1 - i) = false := by
  have hpos : 0 < 2 ^ (n - d) := Nat.two_pow_pos _
  have hsplit : 2 ^ n = 2 ^ d * 2 ^ (n - d) := by rw [← pow_add, Nat.add_sub_cancel' hd]
  have htop : x / 2 ^ (n - d) < 2 ^ d := (Nat.div_lt_iff_lt_mul hpos).mpr (hsplit ▸ hx)
  rw [hsplit, ← Nat.sub_one_mul, ← Nat.div_lt_iff_lt_mul hpos, lt_two_pow_sub_one_iff htop]
  simp only [Nat.testBit_div_two_pow]
  constructor
  · rintro ⟨j, hj, hbit⟩
    exact ⟨d - 1 - j, by omega, by rwa [show n - 1 - (d - 1 - j) = j + (n - d) by omega]⟩
  · rintro ⟨i, hi, hbit⟩
    exact ⟨d - 1 - i, by omega, by rwa [show d - 1 - i + (n - d) = n - 1 - i by omega]⟩

/-- Bit `i` of a byte list, MSB first and byte-major, is the bit of its value that stands `i` places below the top one. -/
theorem testBit_bigEndian (bs : List Byte) {i : Nat} (hi : i < 8 * bs.length) :
    (bigEndian bs).testBit (8 * bs.length - 1 - i) = (bs.getD (i / 8) 0#8).getLsbD (7 - i % 8) := by
  induction bs generalizing i with
  | nil => simp at hi
  | cons b bs ih =>
    rw [List.length_cons] at hi ⊢
    rw [bigEndian_cons, Nat.testBit_two_pow_mul_add _ (bigEndian_lt bs)]
    by_cases h : i < 8
    · rw [if_neg (by omega), BitVec.testBit_toNat, Nat.div_eq_of_lt h, Nat.mod_eq_of_lt h, List.getD_cons_zero]
      congr 1
      omega
    · obtain ⟨k, rfl⟩ := Nat.exists_eq_add_of_le' (Nat.le_of_not_lt h)
      rw [if_pos (by omega), Nat.add_mod_right, Nat.add_div_right _ (by omega), List.getD_cons_succ, ← ih (by omega)]
      congr 1
      omega

/-- Settles O37: the target is `d` ones then zeros, and the bits of the digest's value are those of its bytes. -/
theorem belowTargetIffTopBitsNotAllOnes : Obligations.BelowTargetIffTopBitsNotAllOnes := by
  intro h d hd
  have hlen : h.toList.length = 32 := Vector.length_toList
  have hlt : bigEndian h.toList < 2 ^ 256 := by simpa [hlen] using bigEndian_lt h.toList
  rw [bigEndian_target, lt_topOnes_iff hlt hd]
  refine exists_congr fun i => and_congr_right fun hi => ?_
  rw [← testBit_bigEndian h.toList (by omega), hlen]

end Sys2Proof.Machine
end

section
/-! SUPPORT. The nonce search, the candidate block and POW (46_proof_of_work.md R106 to R113). -/

namespace Sys2Proof.Machine

/-! ### The search -/

/-- The search yields the nonce that qualifies with no smaller one before it: its candidates are the nonces in order, each
once. -/
theorem search_eq_some_iff (digest : List Byte → Digest) (order : NonceOrder) (image : List Byte) (d : Nat) (r : Nonce) :
    search digest order image d = some r ↔ qualifies digest order image d r = true ∧
      ∀ m : Nonce, m.toNat < r.toNat → qualifies digest order image d m = false := by
  rw [search, searchFrom_eq_some_iff]
  simp only [BitVec.zero_add]
  constructor
  · rintro ⟨j, hj, rfl, hq, hmin⟩
    rw [BitVec.toNat_ofNat, Nat.mod_eq_of_lt hj]
    exact ⟨hq, fun m hm => by simpa using hmin m.toNat hm⟩
  · rintro ⟨hq, hmin⟩
    refine ⟨r.toNat, r.isLt, by simp, hq, fun i hi => hmin _ ?_⟩
    rwa [BitVec.toNat_ofNat, Nat.mod_eq_of_lt (hi.trans r.isLt)]

/-- The search yields none where no nonce qualifies. -/
theorem search_eq_none_iff (digest : List Byte → Digest) (order : NonceOrder) (image : List Byte) (d : Nat) :
    search digest order image d = none ↔ ∀ m : Nonce, qualifies digest order image d m = false := by
  rw [search, searchFrom_eq_none_iff]
  simp only [BitVec.zero_add]
  exact ⟨fun h m => by simpa using h m.toNat m.isLt, fun h i _ => h _⟩

/-- Settles O39: the two characterizations of the search. -/
theorem searchYieldsTheLeastNonce : Obligations.SearchYieldsTheLeastNonce := fun digest order image d =>
  ⟨search_eq_some_iff digest order image d, search_eq_none_iff digest order image d⟩

/-- What qualifies at a difficulty qualifies at every greater one: the target grows. -/
theorem qualifies_mono {digest : List Byte → Digest} {order : NonceOrder} {image : List Byte} {d d' : Nat} {r : Nonce}
    (hd : d ≤ d') (h : qualifies digest order image d r = true) : qualifies digest order image d' r = true := by
  have hpow : 2 ^ (256 - d') ≤ 2 ^ (256 - d) := Nat.pow_le_pow_right (by omega) (by omega)
  have htarget : bigEndian (target d) ≤ bigEndian (target d') := by
    rw [bigEndian_target, bigEndian_target]
    exact Nat.sub_le_sub_left hpow _
  rw [qualifies, decide_eq_true_iff] at h ⊢
  exact h.trans_le htarget

/-- Settles O40: the nonce found qualifies at the greater difficulty too, so a least one exists there and is no larger. -/
theorem largerDifficultyFindsNoLater : Obligations.LargerDifficultyFindsNoLater := by
  intro digest order image d d' r hd _ hr
  have hq : qualifies digest order image d' r = true := qualifies_mono hd ((search_eq_some_iff ..).mp hr).1
  cases hs : search digest order image d' with
  | none => simp [(search_eq_none_iff ..).mp hs r] at hq
  | some r' =>
    refine ⟨r', rfl, Nat.le_of_not_lt fun hlt => ?_⟩
    simp [((search_eq_some_iff ..).mp hs).2 r hlt] at hq

/-- At difficulty 0 the target is 0, and no digest is below it. -/
theorem search_zero (digest : List Byte → Digest) (order : NonceOrder) (image : List Byte) :
    search digest order image 0 = none := by
  rw [search_eq_none_iff]
  intro m
  simp [qualifies, bigEndian_target]

/-! ### POW -/

/-- The engine's POW hashes with the parameter DIGEST. -/
theorem exec_pow (n : Nibble) (s : State) : exec (.pow n) s = powWith Config.digest n s := rfl

theorem difficultyInRange_iff (c : Config) : c.difficultyInRange = true ↔ 0 ≤ c.difficulty ∧ c.difficulty ≤ 256 :=
  decide_eq_true_iff

/-- Where the search finds a nonce, POW writes its bytes. -/
theorem powWith_of_some {digest : List Byte → Digest} {s : State} {r : Nonce} (hd : s.cfg.difficultyInRange = true)
    (h : s.powSearch digest = some r) (n : Nibble) : powWith digest n s =
      .next (s.setMem (s.mem.writeRange (cellAddress n) (nonceBytes s.cfg.nonceOrder r))) := by
  simpa [hd, h] using powWith_cases digest n s

/-- Where the search finds none, POW does not complete. -/
theorem powWith_of_none {digest : List Byte → Digest} {s : State} (hd : s.cfg.difficultyInRange = true)
    (h : s.powSearch digest = none) (n : Nibble) : powWith digest n s = .next s.notCompleted := by
  simpa [hd, h] using powWith_cases digest n s

/-- Each byte of a range just written stands in its cell. -/
theorem read_writeRange (m : Memory) (a : Byte) {vs : List Byte} (h : vs.length ≤ 256) {i : Nat} (hi : i < vs.length) :
    (m.writeRange a vs).read (a + BitVec.ofNat 8 i) = vs.getD i 0#8 := by
  have hget := congrArg (·.getD i 0#8) (readRange_writeRange m a h)
  simpa [Memory.readRange, hi] using hget

/-- Settles O41: the nonce is the one the search yields, and the write is one range of four bytes. -/
theorem powWritesTheLeastNonce : Obligations.PowWritesTheLeastNonce := by
  intro digest n s r hlo hhi hq hmin
  have hexec := powWith_of_some ((difficultyInRange_iff _).mpr ⟨hlo, hhi⟩) ((search_eq_some_iff ..).mpr ⟨hq, hmin⟩) n
  refine ⟨_, hexec, ?_, rfl, fun i hi => ?_, fun b hb => ?_⟩
  · rintro rfl
    rw [exec_pow, hexec]
  · exact read_writeRange _ _ (by simp) (by simpa using hi)
  · exact read_writeRange_of_ne _ _ _ _ (by simpa using hb)

/-- Settles O42: by what the search at the state yields. -/
theorem powCompletesOrSearchesForEver : Obligations.PowCompletesOrSearchesForEver := by
  intro n s hlo hhi
  cases hs : s.powSearch Config.digest with
  | some r =>
    obtain ⟨hq, hmin⟩ := (search_eq_some_iff ..).mp hs
    obtain ⟨t, -, hexec, hwritten⟩ := powWritesTheLeastNonce Config.digest n s r hlo hhi hq hmin
    exact ⟨t, hexec rfl, .inl ⟨r, hq, hmin, hwritten⟩⟩
  | none =>
    have hexec := powWith_of_none ((difficultyInRange_iff _).mpr ⟨hlo, hhi⟩) hs n
    exact ⟨_, (exec_pow n s).trans hexec, .inr ⟨(search_eq_none_iff ..).mp hs, rfl⟩⟩

/-- With DIFFICULTY = 0 a step of a POW leaves the state (46_proof_of_work.md R113). -/
theorem step_pow_of_difficulty_zero {s : State} {n : Nibble} (hr : s.running = true) (hd : s.cfg.difficulty = 0)
    (hfetch : s.fetchInstr = .pow n) : step s = .next s := by
  have hsearch : s.fetched.powSearch Config.digest = none := by
    rw [State.powSearch, fetched_cfg, hd]
    exact search_zero _ _ _
  have hrange : s.fetched.cfg.difficultyInRange = true := (difficultyInRange_iff _).mpr (by simp [hd])
  rw [step_of_running hr, hfetch, exec_pow, powWith_of_none hrange hsearch, fetched_notCompleted, finishPass,
    endOfPass_of_running hr]

/-- Settles O43: the search yields none, so the step leaves the state, and so does every number of steps. -/
theorem difficultyZeroNeverCompletes : Obligations.DifficultyZeroNeverCompletes :=
  ⟨search_zero, fun _ _ k hr hd hfetch => run_of_step_self (step_pow_of_difficulty_zero hr hd hfetch) k⟩

/-! ### The candidate block -/

/-- The bytes of a nonce as numbers, least significant first; the last needs no remainder, a nonce being below `2^32`. -/
theorem map_toNat_nonceBytesLe (n : Nonce) : (nonceBytesLe n).map BitVec.toNat =
    [n.toNat % 256, n.toNat / 2 ^ 8 % 256, n.toNat / 2 ^ 16 % 256, n.toNat / 2 ^ 24] := by
  have htop : n.toNat / 2 ^ 24 = n.toNat / 2 ^ 24 % 256 := by omega
  rw [htop]
  simp [nonceBytesLe, Nat.shiftRight_eq_div_pow]

theorem length_image (s : State) : s.image.length = 256 := length_readRange _ _ _

theorem image_getElem? (s : State) (a : Byte) : s.image[a.toNat]? = some (s.mem.read a) := by
  simp [State.image, Memory.readRange, a.isLt]

/-- Settles O35: the block is the 256 cells and then the nonce's four bytes. -/
theorem candidateBlockAppendsTheNonce : Obligations.CandidateBlockAppendsTheNonce := by
  intro n s order
  refine ⟨map_toNat_nonceBytesLe n, rfl, ?_, fun a => ?_, ?_⟩ <;> rw [candidateBlock]
  · rw [List.length_append, length_image, length_nonceBytes]
  · rw [List.getElem?_append_left (by simp [length_image, a.isLt]), image_getElem?]
  · exact List.drop_left' (length_image s)

end Sys2Proof.Machine
end

section
/-! SUPPORT. What stops the loop and what does not: the list of stops, a failed transfer, a division by zero, an
unanswered wait, and what gives no run at all (60_exceptions.md R121 to R130). -/

namespace Sys2Proof.Machine

/-! ### Stops -/

/-- Instruction `i` can stop the loop with cause `c` (60_exceptions.md R121). -/
inductive StopsWith : Instr → Cause → Prop
  | halt (n : Nibble) : StopsWith (.halt n) .halt
  | unknown (n : Nibble) : StopsWith (.unknown n) .unknownInstruction
  | input (n : Nibble) : StopsWith (.input n) .inputError
  | netSend (n : Nibble) : StopsWith (.netSend n) .netError
  | netRecv (n : Nibble) : StopsWith (.netRecv n) .netError

/-- A handler that stops the loop is one of the list, and leaves PC, ACC and memory. -/
theorem HandlerEffect.stop {s u : State} {i : Instr} (h : HandlerEffect s i u) (hr : s.running = true)
    (hu : u.running = false) : u.pc = s.pc ∧ u.acc = s.acc ∧ u.mem = s.mem ∧ StopsWith i u.cause := by
  cases h with
  | halt n => exact ⟨rfl, rfl, rfl, .halt n⟩
  | unknown n => exact ⟨rfl, rfl, rfl, .unknown n⟩
  | inputBad n | inputEnded n => exact ⟨rfl, rfl, rfl, .input n⟩
  | sendFail n => exact ⟨rfl, rfl, rfl, .netSend n⟩
  | recvFail n => exact ⟨rfl, rfl, rfl, .netRecv n⟩
  | _ => exact absurd (hu.symm.trans hr) Bool.false_ne_true

/-- The list of stops, told from the opcode and the configuration. -/
theorem StopsWith.opcode {i : Instr} {c : Cause} {e : Ext15} (h : StopsWith i c) (hi : i.wellFormed e = true) :
    (c = .halt ∧ i.opcode.toNat = 14) ∨ (c = .unknownInstruction ∧ i.opcode.toNat = 15 ∧ e = .none) ∨
      (c = .inputError ∧ i.opcode.toNat = 12) ∨
      (c = .netError ∧ i.opcode.toNat = 15 ∧ (e = .netSend ∨ e = .netRecv)) := by
  cases h with
  | halt => exact .inl ⟨rfl, rfl⟩
  | unknown => exact .inr (.inl ⟨rfl, rfl, eq_of_beq hi⟩)
  | input => exact .inr (.inr (.inl ⟨rfl, rfl⟩))
  | netSend => exact .inr (.inr (.inr ⟨rfl, rfl, .inl (eq_of_beq hi)⟩))
  | netRecv => exact .inr (.inr (.inr ⟨rfl, rfl, .inr (eq_of_beq hi)⟩))

/-- Settles O46: the end of the pass leaves what the stopping handler left, and the fetched instruction is one the
configuration has. -/
theorem stopsAreListedAndPrecise : Obligations.StopsAreListedAndPrecise := by
  intro s t hstep ht
  obtain ⟨hr, u, hu, rfl⟩ := step_effect hstep
  rw [endOfPass_running] at ht
  obtain ⟨hpc, hacc, hmem, hstop⟩ := hu.stop hr ht
  rw [endOfPass_pc, endOfPass_acc, endOfPass_mem, endOfPass_cause]
  refine ⟨hpc, hacc, hmem, ?_⟩
  simpa only [fetchInstr_opcode, toNat_opcodeField] using hstop.opcode (fetchInstr_wellFormed s)

/-- A fetched transfer that meets Fail takes the answer of its own direction and stops. -/
theorem exec_transfer_of_fail {n : Nibble} {s : State} (hc : s.channel = .isOpen)
    (h : (s.fetchInstr = .netSend n ∧ s.sendAnswers.head? = some .fail) ∨
      (s.fetchInstr = .netRecv n ∧ s.recvAnswers.head? = some .fail)) :
    ∃ sends recvs, exec s.fetchInstr s.fetched =
      .next ({ s.fetched with sendAnswers := sends, recvAnswers := recvs }.raiseStop .netError) := by
  rcases h with ⟨hfetch, hfail⟩ | ⟨hfetch, hfail⟩
  · obtain ⟨rest, hrest⟩ := List.head?_eq_some_iff.mp hfail
    rw [hfetch]
    exact ⟨rest, s.recvAnswers, execNetSend_of_fail (s := s.fetched) hc hrest n⟩
  · obtain ⟨rest, hrest⟩ := List.head?_eq_some_iff.mp hfail
    rw [hfetch]
    exact ⟨s.sendAnswers, rest, execNetRecv_of_fail (s := s.fetched) hc hrest n⟩

/-- Settles O34: the stopping step closes the open channel and changes nothing but the answers. -/
theorem transportFailureReleasesTheChannel : Obligations.TransportFailureReleasesTheChannel := by
  intro n s hr hc h
  obtain ⟨sends, recvs, hexec⟩ := exec_transfer_of_fail hc h
  refine ⟨_, step_of_stopping hr hexec rfl, ?_, ?_, ?_, ?_, ?_, ?_, ?_, step_ne_next_of_stopped ?_⟩
  all_goals simp [hc]

/-- Settles O47: a step needs RUNNING = 1 before it fetches. -/
theorem stoppedEngineHasNoStep : Obligations.StoppedEngineHasNoStep := fun _ => step_of_stopped

/-! ### What is no stop: a division by zero, an unanswered wait -/

/-- DIV by a zero cell leaves the whole state (60_exceptions.md R129). -/
theorem exec_div_of_zero {n : Nibble} {s : State} (h : s.operandCell n = 0#8) : exec (.div n) s = .next s := by
  have hnone : alu .div s.acc (s.operandCell n) = none := (alu_eq_none_iff ..).mpr ⟨rfl, h⟩
  have hkeep : s.aluInto .div n = s := by rw [State.aluInto, hnone]
  exact congrArg Host.Outcome.next hkeep

/-- Settles O16: the step is the fetch alone. -/
theorem divisionByZeroIsNoEvent : Obligations.DivisionByZeroIsNoEvent := by
  intro n s hr hfetch hzero
  rw [read_ofNat_toNat] at hzero
  have hstep : step s = .next s.fetched := by
    rw [step_of_running hr, hfetch, exec_div_of_zero (s := s.fetched) hzero, finishPass,
      endOfPass_of_running (s := s.fetched) hr]
  exact ⟨s.fetched, hstep, rfl, hr, step_of_running hr⟩

/-- With no token and an open stream, IN does not complete. -/
theorem execIn_of_waiting {s : State} (h : s.consoleIn = []) (hend : s.consoleEnded = false) (n : Nibble) :
    execIn n s = .next s.notCompleted := by
  simpa [h, hend] using execIn_cases n s

/-- With no answer to the send, NET_SEND does not complete. -/
theorem execNetSend_of_waiting {s : State} (hc : s.channel = .isOpen) (h : s.sendAnswers = []) (n : Nibble) :
    execNetSend n s = .next s.notCompleted := by
  simpa [hc, h] using execNetSend_cases n s

/-- With nothing to receive, NET_RECV does not complete. -/
theorem execNetRecv_of_waiting {s : State} (hc : s.channel = .isOpen) (h : s.recvAnswers = []) (n : Nibble) :
    execNetRecv n s = .next s.notCompleted := by
  simpa [hc, h] using execNetRecv_cases n s

/-- A step whose handler does not complete leaves the state (92_eei_decisions.md D24). -/
theorem step_of_notCompleted {s : State} (hr : s.running = true)
    (h : exec s.fetchInstr s.fetched = .next s.fetched.notCompleted) : step s = .next s := by
  rw [step_of_running hr, h, fetched_notCompleted, finishPass, endOfPass_of_running hr]

/-- Settles O48: each of the three waits leaves the state in one step, so it does for ever. -/
theorem unansweredWaitChangesNothing : Obligations.UnansweredWaitChangesNothing := by
  intro n s k hr hwait
  refine run_of_step_self (step_of_notCompleted hr ?_) k
  rcases hwait with ⟨hfetch, hin, hend⟩ | ⟨hfetch, hc, ha⟩ | ⟨hfetch, hc, ha⟩ <;> rw [hfetch]
  · exact execIn_of_waiting (s := s.fetched) hin hend n
  · exact execNetSend_of_waiting (s := s.fetched) hc ha n
  · exact execNetRecv_of_waiting (s := s.fetched) hc ha n

/-! ### No fault on a sound state -/

/-- While a sound state of a configuration with a channel runs, the channel is open. -/
theorem State.Inv.channel_isOpen {s : State} (hs : s.Inv) (hr : s.running = true)
    (he : s.cfg.ext15.hasChannel = true) : s.channel = .isOpen := by
  simpa [hr, he] using hs.channel

/-- On a sound running state every instruction of the configuration has an answer: a transfer finds the channel open,
and POW a DIFFICULTY in range. -/
theorem exec_eq_next_of_inv {s : State} {i : Instr} (hs : s.Inv) (hr : s.running = true)
    (hi : i.wellFormed s.cfg.ext15 = true) : ∃ t, exec i s = .next t := by
  cases i with
  | input n =>
    rcases execIn_cases n s with ⟨_, _, -, e⟩ | ⟨_, -, e⟩ | ⟨-, -, e⟩ | ⟨-, -, e⟩ <;> exact ⟨_, e⟩
  | netSend n =>
    have hopen : s.channel = .isOpen := hs.channel_isOpen hr (by rw [eq_of_beq hi]; rfl)
    rcases execNetSend_cases n s with ⟨hc, -⟩ | ⟨-, _, -, e⟩ | ⟨-, _, -, e⟩ | ⟨-, -, e⟩
    · exact absurd hopen hc
    all_goals exact ⟨_, e⟩
  | netRecv n =>
    have hopen : s.channel = .isOpen := hs.channel_isOpen hr (by rw [eq_of_beq hi]; rfl)
    rcases execNetRecv_cases n s with ⟨hc, -⟩ | ⟨-, _, _, -, e⟩ | ⟨-, _, -, e⟩ | ⟨-, -, e⟩
    · exact absurd hopen hc
    all_goals exact ⟨_, e⟩
  | pow n =>
    rcases powWith_cases Config.digest n s with ⟨hd, -⟩ | ⟨-, _, -, e⟩ | ⟨-, -, e⟩
    · exact absurd hs.difficulty (Bool.eq_false_iff.mp hd)
    all_goals exact ⟨_, e⟩
  | _ => exact ⟨_, rfl⟩

/-- Settles O53: the fetched state is sound and running, and the fetched instruction is one the configuration has. -/
theorem runningEngineHasAStep : Obligations.RunningEngineHasAStep := by
  intro s hs hr
  obtain ⟨u, hu⟩ := exec_eq_next_of_inv hs.fetched hr (fetchInstr_wellFormed s)
  exact ⟨u.endOfPass, (step_eq_next_iff s _).mpr ⟨hr, u, hu, rfl⟩⟩

/-! ### What gives no run -/

theorem difficultyInRange_eq_false_iff (c : Config) :
    c.difficultyInRange = false ↔ c.difficulty < 0 ∨ 256 < c.difficulty := by
  rw [← Bool.not_eq_true, difficultyInRange_iff]
  omega

/-- An image over 256 bytes is refused (10_state.md R23). -/
theorem startUp_of_long {image : List Byte} (h : 256 < image.length) (c : Config) (env : Environment) :
    startUp c (some image) env = .refused .imageTooLong := if_pos h

/-- An image that fits starts a run where DIFFICULTY is in range (70_reset_and_hazards.md R140). -/
theorem startUp_of_fits {image : List Byte} (h : image.length ≤ 256) (c : Config) (env : Environment) :
    startUp c (some image) env = if c.difficultyInRange then .next (resetState c (loadImage image) env)
      else .refused .difficultyOutOfRange := if_neg (Nat.not_lt.mpr h)

/-- POW refuses a DIFFICULTY out of range, whatever the digest (46_proof_of_work.md R108). -/
theorem powWith_of_out_of_range {s : State} (h : s.cfg.difficultyInRange = false) (digest : List Byte → Digest)
    (n : Nibble) : powWith digest n s = .refused .difficultyOutOfRange := by
  simpa [h] using powWith_cases digest n s

/-- Settles O9: start-up by its three tests in order, and POW by its one. -/
theorem startUpAndPowRefusals : Obligations.StartUpAndPowRefusals := by
  intro c image env n s
  refine ⟨rfl, fun hlong => startUp_of_long hlong c env, fun hfits hd => ?_, fun hd => ?_⟩
  · rw [startUp_of_fits hfits, (difficultyInRange_eq_false_iff c).mpr hd, if_neg Bool.false_ne_true]
  · exact powWith_of_out_of_range ((difficultyInRange_eq_false_iff s.cfg).mpr hd) Config.digest n

end Sys2Proof.Machine
end

section
/-! SUPPORT. What start-up leaves: the Loader's memory, the connection, the invariant (70_reset_and_hazards.md R140,
R143). -/

namespace Sys2Proof.Machine

/-! ### The Loader's memory and the connection -/

/-- MEM0 is the image, then zeros (10_state.md R23). -/
theorem read_loadImage {image : List Byte} (h : image.length ≤ 256) (a : Byte) :
    (loadImage image).read a = image.getD a.toNat 0#8 := by
  by_cases ha : a.toNat < image.length
  · simpa [loadImage] using read_writeRange [] 0#8 h ha
  · have hne : ∀ i < image.length, a ≠ 0#8 + BitVec.ofNat 8 i := by
      rintro i hi rfl
      rw [BitVec.zero_add, BitVec.toNat_ofNat] at ha
      omega
    rw [loadImage, read_writeRange_of_ne _ _ _ _ hne, read_empty, List.getD_eq_default _ _ (Nat.not_lt.mp ha)]

theorem hasChannel_eq_true_iff (e : Ext15) : e.hasChannel = true ↔ e = .netSend ∨ e = .netRecv := by
  cases e <;> decide

theorem hasChannel_eq_false_iff (e : Ext15) : e.hasChannel = false ↔ e = .none ∨ e = .pow := by
  cases e <;> decide

/-- A connected channel is open, and the engine runs. -/
theorem resetState_of_connected {c : Config} {env : Environment} (hc : c.ext15.hasChannel = true)
    (hconn : env.connects = true) (m : Memory) :
    (resetState c m env).running = true ∧ (resetState c m env).cause = .none ∧
      (resetState c m env).channel = .isOpen := by
  simp [resetState, hc, hconn]

/-- A failed connection leaves the engine stopped with CAUSE = NET_ERROR (60_exceptions.md R125). -/
theorem resetState_of_not_connected {c : Config} {env : Environment} (hc : c.ext15.hasChannel = true)
    (hconn : env.connects = false) (m : Memory) :
    (resetState c m env).running = false ∧ (resetState c m env).cause = .netError ∧
      (resetState c m env).channel = .closed := by
  simp [resetState, hc, hconn]

/-- Without a channel the engine runs, whatever the environment says of a connection. -/
theorem resetState_of_no_channel {c : Config} (hc : c.ext15.hasChannel = false) (m : Memory) (env : Environment) :
    (resetState c m env).running = true ∧ (resetState c m env).cause = .none ∧
      (resetState c m env).channel = .absent := by
  simp [resetState, hc]

/-! ### What start-up answers -/

/-- A run starts exactly from an image that fits, under a DIFFICULTY in range; its first state is that of the reset. -/
theorem startUp_eq_next_iff (c : Config) (image : Option (List Byte)) (env : Environment) (s : State) :
    startUp c image env = .next s ↔ ∃ buffer, image = some buffer ∧ buffer.length ≤ 256 ∧
      c.difficultyInRange = true ∧ resetState c (loadImage buffer) env = s := by
  cases image with
  | none => simp [startUp]
  | some buffer =>
    by_cases hlong : 256 < buffer.length
    · simp [startUp_of_long hlong, hlong]
    · have hfits := Nat.not_lt.mp hlong
      cases hd : c.difficultyInRange <;> simp [startUp_of_fits hfits, hd, hfits]

/-- Settles O8: the reset state field by field, memory by the Loader's law, the connection by its three cases. -/
theorem startUpLoadsAndConnects : Obligations.StartUpLoadsAndConnects := by
  intro c image env hfits hlo hhi
  have hstart := (startUp_eq_next_iff c (some image) env _).mpr
    ⟨image, rfl, hfits, (difficultyInRange_iff c).mpr ⟨hlo, hhi⟩, rfl⟩
  refine ⟨_, hstart, rfl, rfl, rfl, read_loadImage hfits, rfl, rfl, rfl, rfl, rfl, rfl, rfl, rfl,
    fun hchan => ?_, fun hno => ?_⟩
  · have hc := (hasChannel_eq_true_iff _).mpr hchan
    exact ⟨fun hconn => resetState_of_connected hc hconn _, fun hconn => resetState_of_not_connected hc hconn _⟩
  · exact resetState_of_no_channel ((hasChannel_eq_false_iff _).mpr hno) _ env

/-- The end of the reset procedure is sound where MEM0 is canonical and DIFFICULTY in range. -/
theorem resetState_inv {c : Config} {m : Memory} (hm : m.wf = true) (hd : c.difficultyInRange = true)
    (env : Environment) : (resetState c m env).Inv where
  memory := hm
  cause := by cases hc : c.ext15.hasChannel <;> cases hconn : env.connects <;> simp [resetState, hc, hconn]
  channel := by cases hc : c.ext15.hasChannel <;> cases hconn : env.connects <;> simp [resetState, hc, hconn]
  difficulty := hd

/-- Settles O51: start-up's memory is the Loader's, and its DIFFICULTY has been tested. -/
theorem startUpMeetsTheInvariant : Obligations.StartUpMeetsTheInvariant := by
  intro c image env s h
  obtain ⟨buffer, -, -, hd, rfl⟩ := (startUp_eq_next_iff c image env s).mp h
  exact resetState_inv (wf_loadImage buffer) hd env

end Sys2Proof.Machine
end
